-- ==== Sys2Proof/Word.lean ====
section
/-! DEFINITION. The word types of the codec block: every width the spec gives a value (00_scope R7, 10_state R16, R17). -/

namespace Sys2Proof

/-- A byte, the only addressable unit of BUF and TX (20_memory R31); also `u8`. -/
abbrev Byte := BitVec 8

/-- `u16`: logical ids, register start, CRC-16, a value of a write request. -/
abbrev Half := BitVec 16

/-- `u24`: the hard constant `const_bytes` (30_encoding R58). -/
abbrev U24 := BitVec 24

end Sys2Proof
end

