-- ==== Sys2Proof/Syntax.lean ====
section
/-! DEFINITION. The instructions: one constructor per row of spec/opcode_table.json, and the records and frames
they carry. -/

namespace Sys2Proof

/-- 10_state R16: the result of PARSE_HARD, an operand of VALIDATE_HARD and VALIDATE_SOFT. -/
structure HardHeader where
  startByte     : Byte
  toHard        : Byte
  fromHard      : Byte
  constBytes    : U24
  payloadLength : Byte
  crc8          : Byte
  calcCrc8      : Byte
  deriving DecidableEq, Repr

/-- 10_state R17: the result of PARSE_SOFT, an operand of VALIDATE_SOFT. -/
structure SoftMessage where
  toLogical     : Half
  fromLogical   : Half
  functionCode  : Byte
  constByte     : Half
  registerCount : Byte
  registerStart : Half
  restMessage   : List Byte
  crc16         : Half
  calcCrc16     : Half
  deriving DecidableEq, Repr

/-- What stands behind offset 14 of a frame. -/
inductive FrameTail where
  /-- The soft message is there whole and has room for its fields (30_encoding R53). -/
  | whole (registerCount : Byte) (registerStart : Half) (restMessage : List Byte) (crc16 : Half)
  /-- The bytes end before offset `8 + payload_length`, or `payload_length < 12`, so the fields of R53 are not
  all there. Such bytes still match a row of the table (R75), and R105 gives them an error kind or the wait path. -/
  | cut (bytes : List Byte)
  deriving DecidableEq, Repr

/-- The fields of a frame that its row of the table leaves free (30_encoding R51, R53, R75). -/
structure Frame where
  toHard        : Byte
  fromHard      : Byte
  payloadLength : Byte
  crc8          : Byte
  toLogical     : Half
  fromLogical   : Half
  tail          : FrameTail
  deriving DecidableEq, Repr

/-- One constructor per row of spec/opcode_table.json: the five frames (00_scope section 4: the encoded
instructions) and the 17 operations of R6. -/
inductive Instr where
  | readReq       (f : Frame)
  | readResp      (f : Frame)
  | writePush     (f : Frame)
  | writeAck      (f : Frame)
  | frameOther    (functionCode : Byte) (f : Frame)
  | crc8Clr
  | crc8Byte      (b : Byte)
  | crc8Read
  | crc8Msg       (bytes : List Byte)
  | crc16Clr
  | crc16Byte     (b : Byte)
  | crc16Read
  | crc16Msg      (bytes : List Byte)
  | parseHard     (buf : List Byte)
  | validateHard  (h : HardHeader)
  | parseSoft     (payload : List Byte) (declaredLength : Byte)
  | validateSoft  (h : HardHeader) (sh : SoftMessage)
  | processOne    (buffer : List Byte) (allowPartial : Bool)
  | processAll    (buffer : List Byte) (allowPartial : Bool)
  | buildRead     (devHard conHard : Byte) (devLogical conLogical start : Half) (count : Byte)
  | buildWrite    (devHard conHard : Byte) (devLogical conLogical start : Half) (count : Byte) (values : List Half)
  | setIds        (conHard devHard : Byte) (conLogical devLogical : Half)
  deriving DecidableEq, Repr

end Sys2Proof
end

