-- ==== Sys2Proof/WellFormed.lean ====
section
/-! DEFINITION. Which instructions as syntax the encoding can spell. Operands of operations are of their width by
type and of any finite length (00_scope R5: "The rules are stated for every finite length"); only frames have
something to check. -/

namespace Sys2Proof

/-- The four function codes the spec names (30_encoding R60). -/
def knownFunctionCodes : List Byte := [0x40#8, 0x50#8, 0x60#8, 0x70#8]

/-- R52, R54: a whole soft message has `payload_length = 12 + len(rest_message)`; bytes that are cut are at most the
frame's own, and are not a whole soft message. -/
def Frame.wellFormed (f : Frame) : Bool :=
  match f.tail with
  | .whole _ _ rest _ => decide (f.payloadLength.toNat = 12 + rest.length)
  | .cut bytes =>
    decide (bytes.length ≤ f.payloadLength.toNat - 7) &&
      decide (f.payloadLength.toNat < 12 ∨ bytes.length < f.payloadLength.toNat - 7)

/-- R75: the row FRAME_OTHER is tried last, so its function code is none of the known ones. -/
def Instr.wellFormed : Instr → Bool
  | .readReq f => f.wellFormed
  | .readResp f => f.wellFormed
  | .writePush f => f.wellFormed
  | .writeAck f => f.wellFormed
  | .frameOther fn f => f.wellFormed && !(knownFunctionCodes.contains fn)
  | .crc8Clr => true
  | .crc8Byte _ => true
  | .crc8Read => true
  | .crc8Msg _ => true
  | .crc16Clr => true
  | .crc16Byte _ => true
  | .crc16Read => true
  | .crc16Msg _ => true
  | .parseHard _ => true
  | .validateHard _ => true
  | .parseSoft _ _ => true
  | .validateSoft _ _ => true
  | .processOne _ _ => true
  | .processAll _ _ => true
  | .buildRead _ _ _ _ _ _ => true
  | .buildWrite _ _ _ _ _ _ _ => true
  | .setIds _ _ _ _ => true

end Sys2Proof
end

