-- ==== Sys2Proof/Decode.lean ====
section
/-! DEFINITION. From bytes to instructions and back. Two places hold encoded instructions: the command interface,
where a request is an `op` byte and its operands (30_encoding R74), and the buffer a decoder reads, where frames
stand (R50 to R59, R75). -/

namespace Sys2Proof

/-! ## Bytes and fields (00_scope R7, 20_memory R32, R33) -/

/-- `lo8(v) = v[7:0]`. -/
def lo8 (v : Half) : Byte := v.extractLsb' 0 8

/-- `hi8(v) = v[15:8]`. -/
def hi8 (v : Half) : Byte := v.extractLsb' 8 8

/-- `le16(b0, b1) = b0 + 256*b1`: the byte at the lower offset is the less significant (R32). -/
def le16 (b0 b1 : Byte) : Half := b1 ++ b0

/-- `be16(hi, lo) = 256*hi + lo`: the CRC-16 on the wire (R33, R56). -/
def be16 (hi lo : Byte) : Half := hi ++ lo

/-- `le24(b0, b1, b2) = b0 + 256*b1 + 65536*b2`. -/
def le24 (b0 b1 b2 : Byte) : U24 := b2 ++ (b1 ++ b0 : Half)

/-- `B[i]`. Every rule that reads `B[i]` has checked `i < len(B)` (20_memory R44), so the default is never used. -/
def byteAt (bytes : List Byte) (i : Nat) : Byte := bytes.getD i 0#8

/-- `B[i..j)`, cut at `len(B)`. -/
def slice (bytes : List Byte) (i j : Nat) : List Byte := (bytes.take j).drop i

/-- The three bytes of a 24-bit value, little-endian. -/
def bytes24 (v : U24) : List Byte := [v.extractLsb' 0 8, v.extractLsb' 8 8, v.extractLsb' 16 8]

/-! ## Fixed numbers of the frame (00_scope R5) -/

/-- `START_BYTE`. -/
def startByte : Byte := 0x69#8

/-- `HARD_CONST`, the 24-bit value 0x000084 (R58). -/
def hardConst : U24 := 0x000084#24

/-- `SOFT_CONST`, the 16-bit value 0x0080 (R59). -/
def softConst : Half := 0x0080#16

/-- `HARD_LEN`. -/
def hardLen : Nat := 8

/-- `SOFT_MIN`. -/
def softMin : Nat := 12

/-- `FRAME_MAX`. -/
def frameMax : Nat := 263

/-! ## Frames -/

/-- The frame types of the table (R60, R66). -/
inductive FrameKind where
  | readReq | readResp | writePush | writeAck | other
  deriving DecidableEq, Repr

/-- A frame row of spec/opcode_table.json. -/
structure FrameRow where
  kind  : FrameKind
  match15 : List Byte
  mask15  : List Byte
  deriving DecidableEq, Repr

/-- R75: the mask of the four rows with a known function code. -/
def knownMask : List Byte :=
  [0xFF#8, 0x00#8, 0x00#8, 0xFF#8, 0xFF#8, 0xFF#8, 0x00#8, 0x00#8, 0x00#8, 0x00#8, 0x00#8, 0x00#8, 0xFF#8, 0xFF#8, 0xFF#8]

/-- R75: the mask of FRAME_OTHER, 00 at offset 12 as well. -/
def otherMask : List Byte :=
  [0xFF#8, 0x00#8, 0x00#8, 0xFF#8, 0xFF#8, 0xFF#8, 0x00#8, 0x00#8, 0x00#8, 0x00#8, 0x00#8, 0x00#8, 0x00#8, 0xFF#8, 0xFF#8]

/-- The `match` bytes of a frame row with function code `fn`. -/
def rowMatch (fn : Byte) : List Byte :=
  [0x69#8, 0x00#8, 0x00#8, 0x84#8, 0x00#8, 0x00#8, 0x00#8, 0x00#8, 0x00#8, 0x00#8, 0x00#8, 0x00#8, fn, 0x80#8, 0x00#8]

/-- R75: "tries the four known rows first and FRAME_OTHER last". -/
def frameRows : List FrameRow :=
  [⟨.readReq, rowMatch 0x40#8, knownMask⟩, ⟨.readResp, rowMatch 0x50#8, knownMask⟩,
   ⟨.writePush, rowMatch 0x60#8, knownMask⟩, ⟨.writeAck, rowMatch 0x70#8, knownMask⟩,
   ⟨.other, rowMatch 0x00#8, otherMask⟩]

/-- R75: `len(F) >= 15` and `(F[i] AND mask[i]) == match[i]` for every `i` in 0..14. -/
def FrameRow.matches (r : FrameRow) (bytes : List Byte) : Bool :=
  decide (15 ≤ bytes.length) &&
    (List.range 15).all fun i => (byteAt bytes i &&& byteAt r.mask15 i) == byteAt r.match15 i

/-- The first row the bytes match. -/
def classify (bytes : List Byte) : Option FrameKind :=
  (frameRows.find? fun r => r.matches bytes).map FrameRow.kind

/-- Soft-message fields from offset 15 on, `t` the bytes there, `len` the `payload_length` (R53, R55, R56; soft
offset `k` is index `k - 7` of `t`). -/
def readTail (len : Nat) (t : List Byte) : FrameTail :=
  if softMin ≤ len ∧ len - 7 ≤ t.length then
    .whole (byteAt t 0) (le16 (byteAt t 1) (byteAt t 2)) (slice t 3 (len - 9))
      (be16 (byteAt t (len - 9)) (byteAt t (len - 8)))
  else .cut (t.take (len - 7))

/-- R51, R53, R55: the fields of a frame at their offsets. -/
def readFrame (bytes : List Byte) : Frame :=
  { toHard := byteAt bytes 1
    fromHard := byteAt bytes 2
    payloadLength := byteAt bytes 6
    crc8 := byteAt bytes 7
    toLogical := le16 (byteAt bytes 8) (byteAt bytes 9)
    fromLogical := le16 (byteAt bytes 10) (byteAt bytes 11)
    tail := readTail (byteAt bytes 6).toNat (bytes.drop 15) }

/-- The instruction of a row. -/
def FrameKind.instr (k : FrameKind) (fn : Byte) (f : Frame) : Instr :=
  match k with
  | .readReq => .readReq f
  | .readResp => .readResp f
  | .writePush => .writePush f
  | .writeAck => .writeAck f
  | .other => .frameOther fn f

/-! ## Decoding, rejecting by name -/

/-- Where encoded instructions stand. -/
inductive Space where
  /-- The command interface (R74). -/
  | command
  /-- The buffer of a decoder operation, space BUF (20_memory R30). -/
  | buffer
  deriving DecidableEq, Repr

/-- Why bytes are no instruction. -/
inductive DecodeError where
  /-- No `op` byte at all. -/
  | noOperation
  /-- `op` 0x11..0x1F (R74; 60 R184 `UnknownOperation`). -/
  | unknownOperation (op : Nat)
  /-- Fewer bytes than the operation's operands take in the model's layout (assumption 4). -/
  | operandsMissing (op : Nat)
  /-- Fewer than the 15 bytes a frame row looks at (R75). -/
  | frameTooShort
  /-- Fifteen bytes or more that match no frame row (R75). -/
  | noFrameRow
  deriving DecidableEq, Repr

/-- A frame at the head of BUF. -/
def decodeFrame (bytes : List Byte) : Except DecodeError Instr :=
  if bytes.length < 15 then .error .frameTooShort
  else match classify bytes with
    | none => .error .noFrameRow
    | some k => .ok (k.instr (byteAt bytes 12) (readFrame bytes))

/-- Words of a write request, each low byte first; a last odd byte is no word. -/
def halvesOf : List Byte → List Half
  | lo :: hi :: rest => le16 lo hi :: halvesOf rest
  | [_] => []
  | [] => []

/-- The bytes of words, each low byte first (42 R131). -/
def bytesOfHalves : List Half → List Byte
  | [] => []
  | v :: rest => lo8 v :: hi8 v :: bytesOfHalves rest

/-- A flag operand: any byte but 0 is true (assumption 4). -/
def flagOf (b : Byte) : Bool := b != 0#8

/-- A HardHeader operand: its nine bytes in the order of R16, `const_bytes` little-endian (assumption 4). -/
def headerOperand (a0 a1 a2 a3 a4 a5 a6 a7 a8 : Byte) : HardHeader :=
  { startByte := a0, toHard := a1, fromHard := a2, constBytes := le24 a3 a4 a5, payloadLength := a6, crc8 := a7, calcCrc8 := a8 }

/-- The operands of operation `op` (R74's numbers), in the order the rules give them; a sequence of any length
stands last and is all the bytes left (assumption 4). -/
def decodeOperands (op : Nat) (args : List Byte) : Except DecodeError Instr :=
  match op with
  | 0x00 => .ok .crc8Clr
  | 0x01 => match args with
    | b :: _ => .ok (.crc8Byte b)
    | _ => .error (.operandsMissing 0x01)
  | 0x02 => .ok .crc8Read
  | 0x03 => .ok (.crc8Msg args)
  | 0x04 => .ok .crc16Clr
  | 0x05 => match args with
    | b :: _ => .ok (.crc16Byte b)
    | _ => .error (.operandsMissing 0x05)
  | 0x06 => .ok .crc16Read
  | 0x07 => .ok (.crc16Msg args)
  | 0x08 => .ok (.parseHard args)
  | 0x09 => match args with
    | a0 :: a1 :: a2 :: a3 :: a4 :: a5 :: a6 :: a7 :: a8 :: _ =>
      .ok (.validateHard (headerOperand a0 a1 a2 a3 a4 a5 a6 a7 a8))
    | _ => .error (.operandsMissing 0x09)
  | 0x0A => match args with
    | n :: payload => .ok (.parseSoft payload n)
    | _ => .error (.operandsMissing 0x0A)
  | 0x0B => match args with
    | a0 :: a1 :: a2 :: a3 :: a4 :: a5 :: a6 :: a7 :: a8 ::
        t0 :: t1 :: f0 :: f1 :: fn :: c0 :: c1 :: n :: s0 :: s1 :: k0 :: k1 :: j0 :: j1 :: rest =>
      .ok (.validateSoft (headerOperand a0 a1 a2 a3 a4 a5 a6 a7 a8)
        { toLogical := le16 t0 t1, fromLogical := le16 f0 f1, functionCode := fn, constByte := le16 c0 c1,
          registerCount := n, registerStart := le16 s0 s1, restMessage := rest, crc16 := le16 k0 k1,
          calcCrc16 := le16 j0 j1 })
    | _ => .error (.operandsMissing 0x0B)
  | 0x0C => match args with
    | p :: buffer => .ok (.processOne buffer (flagOf p))
    | _ => .error (.operandsMissing 0x0C)
  | 0x0D => match args with
    | p :: buffer => .ok (.processAll buffer (flagOf p))
    | _ => .error (.operandsMissing 0x0D)
  | 0x0E => match args with
    | d :: c :: d0 :: d1 :: c0 :: c1 :: s0 :: s1 :: n :: _ =>
      .ok (.buildRead d c (le16 d0 d1) (le16 c0 c1) (le16 s0 s1) n)
    | _ => .error (.operandsMissing 0x0E)
  | 0x0F => match args with
    | d :: c :: d0 :: d1 :: c0 :: c1 :: s0 :: s1 :: n :: values =>
      .ok (.buildWrite d c (le16 d0 d1) (le16 c0 c1) (le16 s0 s1) n (halvesOf values))
    | _ => .error (.operandsMissing 0x0F)
  | 0x10 => match args with
    | c :: d :: c0 :: c1 :: d0 :: d1 :: _ => .ok (.setIds c d (le16 c0 c1) (le16 d0 d1))
    | _ => .error (.operandsMissing 0x10)
  | n => .error (.unknownOperation n)

/-- A request on the command interface: `op` is the low five bits of its first byte (R74, mask 1F of R75). -/
def decodeRequest : List Byte → Except DecodeError Instr
  | [] => .error .noOperation
  | b :: args => decodeOperands (b &&& 0x1F#8).toNat args

/-- The instruction the bytes in a space spell, or why they spell none. -/
def decode (space : Space) (bytes : List Byte) : Except DecodeError Instr :=
  match space with
  | .command => decodeRequest bytes
  | .buffer => decodeFrame bytes

/-! ## Encoding -/

/-- Where an instruction's encoding stands. -/
def Instr.space : Instr → Space
  | .readReq _ => .buffer
  | .readResp _ => .buffer
  | .writePush _ => .buffer
  | .writeAck _ => .buffer
  | .frameOther _ _ => .buffer
  | .crc8Clr => .command
  | .crc8Byte _ => .command
  | .crc8Read => .command
  | .crc8Msg _ => .command
  | .crc16Clr => .command
  | .crc16Byte _ => .command
  | .crc16Read => .command
  | .crc16Msg _ => .command
  | .parseHard _ => .command
  | .validateHard _ => .command
  | .parseSoft _ _ => .command
  | .validateSoft _ _ => .command
  | .processOne _ _ => .command
  | .processAll _ _ => .command
  | .buildRead _ _ _ _ _ _ => .command
  | .buildWrite _ _ _ _ _ _ _ => .command
  | .setIds _ _ _ _ => .command

/-- R53, R56: the bytes behind offset 14. -/
def encodeTail : FrameTail → List Byte
  | .whole count start rest crc => count :: lo8 start :: hi8 start :: (rest ++ [hi8 crc, lo8 crc])
  | .cut bytes => bytes

/-- R51, R53: the bytes of a frame, in wire order. -/
def encodeFrame (fn : Byte) (f : Frame) : List Byte :=
  [0x69#8, f.toHard, f.fromHard, 0x84#8, 0x00#8, 0x00#8, f.payloadLength, f.crc8,
   lo8 f.toLogical, hi8 f.toLogical, lo8 f.fromLogical, hi8 f.fromLogical, fn, 0x80#8, 0x00#8] ++ encodeTail f.tail

/-- A flag operand. -/
def flagByte (b : Bool) : Byte := if b then 0x01#8 else 0x00#8

/-- The bytes of a 16-bit operand, low byte first. -/
def bytes16 (v : Half) : List Byte := [lo8 v, hi8 v]

/-- The nine bytes of a HardHeader operand. -/
def headerBytes (h : HardHeader) : List Byte :=
  [h.startByte, h.toHard, h.fromHard] ++ bytes24 h.constBytes ++ [h.payloadLength, h.crc8, h.calcCrc8]

/-- The bytes of a SoftMessage operand, `rest_message` last. -/
def softBytes (m : SoftMessage) : List Byte :=
  bytes16 m.toLogical ++ bytes16 m.fromLogical ++ [m.functionCode] ++ bytes16 m.constByte ++ [m.registerCount] ++
    bytes16 m.registerStart ++ bytes16 m.crc16 ++ bytes16 m.calcCrc16 ++ m.restMessage

/-- The operands both builders have (42 R130, R131). -/
def builderBytes (devHard conHard : Byte) (devLogical conLogical start : Half) (count : Byte) : List Byte :=
  [devHard, conHard] ++ bytes16 devLogical ++ bytes16 conLogical ++ bytes16 start ++ [count]

/-- The bytes of an instruction. -/
def encode : Instr → List Byte
  | .readReq f => encodeFrame 0x40#8 f
  | .readResp f => encodeFrame 0x50#8 f
  | .writePush f => encodeFrame 0x60#8 f
  | .writeAck f => encodeFrame 0x70#8 f
  | .frameOther fn f => encodeFrame fn f
  | .crc8Clr => [0x00#8]
  | .crc8Byte b => [0x01#8, b]
  | .crc8Read => [0x02#8]
  | .crc8Msg bytes => 0x03#8 :: bytes
  | .crc16Clr => [0x04#8]
  | .crc16Byte b => [0x05#8, b]
  | .crc16Read => [0x06#8]
  | .crc16Msg bytes => 0x07#8 :: bytes
  | .parseHard buf => 0x08#8 :: buf
  | .validateHard h => 0x09#8 :: headerBytes h
  | .parseSoft payload n => 0x0A#8 :: n :: payload
  | .validateSoft h m => 0x0B#8 :: (headerBytes h ++ softBytes m)
  | .processOne buffer p => 0x0C#8 :: flagByte p :: buffer
  | .processAll buffer p => 0x0D#8 :: flagByte p :: buffer
  | .buildRead d c dl cl s n => 0x0E#8 :: builderBytes d c dl cl s n
  | .buildWrite d c dl cl s n values => 0x0F#8 :: (builderBytes d c dl cl s n ++ bytesOfHalves values)
  | .setIds c d cl dl => 0x10#8 :: ([c, d] ++ bytes16 cl ++ bytes16 dl)

/-! ## Words of the opcode table -/

/-- `n` bytes of a number, bits 7..0 first. -/
def bytesOfNat : Nat → Nat → List Byte
  | 0, _ => []
  | n + 1, w => BitVec.ofNat 8 w :: bytesOfNat n (w / 256)

/-- The longest operation with no sequence operand, VALIDATE_SOFT with an empty `rest_message`: 24 bytes. -/
def longestRequest : Nat := 24

/-- The bytes of a table word: a row of one byte is an operation, a longer one a frame (R75), with the bytes above the
row's own zero. -/
def tableBytes (nbits w : Nat) : List Byte :=
  bytesOfNat (if nbits ≤ 8 then longestRequest else frameMax) (w % 2 ^ nbits)

/-- Where a table word stands. -/
def tableSpace (nbits : Nat) : Space := if nbits ≤ 8 then .command else .buffer

/-- The instruction the decoder reads from a word of the opcode table. -/
def decodeTableWord (nbits w : Nat) : Option Instr := (decode (tableSpace nbits) (tableBytes nbits w)).toOption

end Sys2Proof
end

