-- ==== Sys2Proof/Config.lean ====
section
/-! DEFINITION. What the spec leaves to the implementation, as constants without a body: the free values.
`BUF_MAX`, which a model takes as an argument (92 D23), is a field of `State` instead (assumption 9). -/

namespace Sys2Proof

/-- FREE VALUE. What `ACC8` holds after the `n`-th operation that leaves it unspecified: "`any value` of 8 and of
16 bits, drawn afresh at each such operation" (93 U2, 70 R204; assumption 6). -/
opaque Config.freeAcc8 : Nat → Byte

/-- FREE VALUE. What `ACC16` holds after the `n`-th operation that leaves it unspecified (93 U2; assumption 6). -/
opaque Config.freeAcc16 : Nat → Half

/-- FREE VALUE. Which refusal an implementation reports for a request that is to be refused both as `IdsUnset` and as
`BufferTooLong`; the spec states no order between the two (60 R184; assumption 10). -/
opaque Config.idsUnsetFirst : Bool

end Sys2Proof
end

