-- ==== Sys2Proof/Machine/State.lean ====
section
/-! DEFINITION. The state of the codec block as plain data, the outputs it delivers, the reasons it can stop, and the
state after reset. -/

namespace Sys2Proof.Machine

/-- The error kinds of 60_exceptions R170, in the order of their codes. No kind carries a value (R170). -/
inductive ErrorKind where
  | frameTooShort
  | invalidStartByte
  | invalidHardChecksum
  | invalidConstBytes
  | invalidHardAddress
  | hardAddressCollision
  | softLengthMismatch
  | softMessageTooShort
  | invalidSoftChecksum
  | invalidSoftConst
  | invalidSoftAddress
  /-- Raised by PROCESS_ALL's loop only (R182); unreachable (R108). -/
  | stuckConsumption
  /-- Belongs to the register decoder; "The block never raises it" (R183). -/
  | decodeOutOfBounds
  deriving DecidableEq, Repr

/-- The reasons of a refused request (60_exceptions R184). A refusal is delivered as the request's result and
changes no state (assumption 1). -/
inductive RefusalReason where
  | idsUnset
  | busy
  | payloadTooLong
  | bufferTooLong
  | unknownOperation
  deriving DecidableEq, Repr

/-- The value an operation yields when it ends without an error kind. -/
inductive Value where
  /-- "Result: none": CLR, BYTE, SET_IDS. -/
  | none
  /-- A CRC-8 (R88, R92). -/
  | byte (b : Byte)
  /-- A CRC-16 as a number (R91, R93). -/
  | half (v : Half)
  /-- PARSE_HARD (R100). -/
  | header (h : HardHeader)
  /-- PARSE_SOFT (R102). -/
  | message (sh : SoftMessage)
  /-- VALIDATE_HARD, VALIDATE_SOFT (R101, R103). -/
  | ok
  /-- PROCESS_ONE: (`consumed_bytes`, `remaining_buffer`) (R105). -/
  | consumed (n : Nat) (rest : List Byte)
  /-- PROCESS_ALL: `remaining_buffer` (R106). -/
  | remaining (bytes : List Byte)
  /-- A builder's frame, space TX (20_memory R30; R130, R131). -/
  | frame (bytes : List Byte)
  deriving DecidableEq, Repr

/-- What the block gives the host (10_state R19). -/
inductive Output where
  /-- The event MSG: header, message, raw frame bytes (43 R152). -/
  | msg (h : HardHeader) (sh : SoftMessage) (raw : List Byte)
  /-- An operation's result. -/
  | value (v : Value)
  /-- An operation's error kind, in place of its result (60 R186). -/
  | error (k : ErrorKind)
  /-- A refused request (60 R184). -/
  | refused (r : RefusalReason)
  deriving DecidableEq, Repr

/-- The four control registers (10_state R12). -/
structure Ids where
  conHard    : Byte
  devHard    : Byte
  conLogical : Half
  devLogical : Half
  deriving DecidableEq, Repr

/-- A PROCESS_ALL that is running: the bytes it was given (space BUF, 20_memory R30), the frame cursor `pos`
(10_state R14) and its mode operand (41 R106). -/
structure Scan where
  buffer       : List Byte
  pos          : Nat
  allowPartial : Bool
  deriving DecidableEq, Repr

/-- What the block does once the host has handled the MSG event (43 R153). -/
inductive Resume where
  /-- PROCESS_ONE: its result, after its MSG (20_memory R41 (c)). -/
  | result (v : Value)
  /-- PROCESS_ALL: the frame at `scan.pos` has consumed `n` bytes; the loop goes on. -/
  | advance (scan : Scan) (n : Nat)
  deriving DecidableEq, Repr

/-- The operation in progress. Only the operations that emit MSG can be seen in progress; all others end in the
step that begins them (00_scope R6). -/
inductive Activity where
  /-- No operation in progress. -/
  | idle
  /-- PROCESS_ALL is about to process the frame at its cursor. -/
  | scanning (scan : Scan)
  /-- An MSG has been emitted and the host is handling it (43 R153, R154). -/
  | handling (next : Resume)
  deriving DecidableEq, Repr

/-- What the host does in one step (assumption 2). -/
inductive HostAct where
  /-- Nothing; if it is handling an MSG, it goes on handling it. -/
  | idle
  /-- It has handled the MSG event, if there is one; otherwise nothing. -/
  | ack
  /-- It presents a request on the command interface (30_encoding R74). -/
  | request (bytes : List Byte)
  /-- It asserts the reset input (70 R200). -/
  | reset
  deriving DecidableEq, Repr

/-- All the spec gives the machine. -/
structure State where
  /-- `ACC8` (10_state R10). -/
  acc8       : Byte
  /-- `ACC16` (10_state R11). -/
  acc16      : Half
  /-- The id registers (10_state R12). -/
  ids        : Ids
  /-- `IDS_WRITTEN` (10_state R13). -/
  idsWritten : Bool
  /-- The operation in progress, with the frame cursor (10_state R14, 43 R154). -/
  activity   : Activity
  /-- What the host will do, the next act first (assumption 2). -/
  host       : List HostAct
  /-- What the host has been given, oldest first (10_state R19; assumption 3). -/
  outputs    : List Output
  /-- The model's own: how many free values have been drawn (93 U2; assumption 6). -/
  draws      : Nat
  /-- The parameter `BUF_MAX`, `none` for an implementation without a bound (00_scope R5, 93 U8; assumption 9).
  No step changes it. -/
  bufMax     : Option Nat
  deriving DecidableEq, Repr

/-- Why the machine stops with a fault. -/
inductive Fault where
  /-- Raised by `exec` of a frame while no PROCESS_ALL is running: the frame cursor "does not exist outside
  PROCESS_ALL" (10_state R20). Safe: no step fetches a frame then (assumption 16). -/
  | noFrameCursor
  deriving DecidableEq, Repr

/-- Why something is given no meaning. -/
inductive Refusal where
  /-- Raised by `exec` for an instruction without a meaning. Safe. No instruction is in this case. -/
  | notModelled (mnemonic : String)
  /-- Raised by the fetch of a request whose bytes are no request of the model's operand layout (no `op` byte, or
  operand bytes missing); the spec gives such a request no meaning. Safe (assumption 5). -/
  | malformedRequest
  deriving DecidableEq, Repr

/-- The machine right after reset (10_state R20, 70 R200): accumulators 0, `IDS_WRITTEN` 0, idle, nothing emitted. The
spec gives the id registers no value; the model holds 0 in them (assumption 7). `BUF_MAX` is no bound (assumption 9). -/
def State.reset : State :=
  { acc8 := 0x00#8
    acc16 := 0x0000#16
    ids := { conHard := 0x00#8, devHard := 0x00#8, conLogical := 0x0000#16, devLogical := 0x0000#16 }
    idsWritten := false
    activity := .idle
    host := []
    outputs := []
    draws := 0
    bufMax := none }

end Sys2Proof.Machine
end

