-- ==== Sys2Proof/Machine/Ops.lean ====
section
/-! DEFINITION. The named operations over the state: refusing a request, delivering a result, emitting MSG, taking an
error kind, leaving an accumulator unspecified, running PROCESS_ALL's loop, reset. -/

namespace Sys2Proof.Machine

/-- The outcome of one step of this machine. -/
abbrev StepOutcome := Host.Outcome State Fault Refusal

/-! ## Codes -/

/-- The numeric codes of R170 (the spec's own; no rule depends on them, 92 D19). -/
def ErrorKind.code : ErrorKind → Nat
  | .frameTooShort => 1
  | .invalidStartByte => 2
  | .invalidHardChecksum => 3
  | .invalidConstBytes => 4
  | .invalidHardAddress => 5
  | .hardAddressCollision => 6
  | .softLengthMismatch => 7
  | .softMessageTooShort => 8
  | .invalidSoftChecksum => 9
  | .invalidSoftConst => 10
  | .invalidSoftAddress => 11
  | .stuckConsumption => 12
  | .decodeOutOfBounds => 13

/-- The code on a result interface, 0 for no error (R170). A refusal is no error kind and an MSG no result. -/
def Output.code : Output → Option Nat
  | .value _ => some 0
  | .error k => some k.code
  | .refused _ => none
  | .msg _ _ _ => none

/-! ## Delivering -/

/-- An operation ends with a value; the block is idle again (43 R158). -/
def State.finish (s : State) (v : Value) : State :=
  { s with activity := .idle, outputs := s.outputs ++ [.value v] }

/-- TAKING AN ERROR KIND, the block's exception (60 R186): the operation ends, its result is the kind alone, MSG events
already emitted stand, nothing is saved, there is no vector, and the block is ready for the next operation (R188: no
return-from-error exists). -/
def State.raise (s : State) (k : ErrorKind) : State :=
  { s with activity := .idle, outputs := s.outputs ++ [.error k] }

/-- A refused request: its result is the refusal, and no state changes; an operation in progress goes on (60 R184,
43 R154, 90 C14; assumption 1). -/
def State.refuse (s : State) (r : RefusalReason) : State :=
  { s with outputs := s.outputs ++ [.refused r] }

/-- `emit MSG(h, sh, raw)`; the block goes on with `next` once the host has handled it (43 R152, R153). -/
def State.emit (s : State) (h : HardHeader) (sh : SoftMessage) (raw : List Byte) (next : Resume) : State :=
  { s with activity := .handling next, outputs := s.outputs ++ [.msg h sh raw] }

/-! ## Registers -/

/-- R86, R87: writes `ACC8`. -/
def State.setAcc8 (s : State) (v : Byte) : State := { s with acc8 := v }

/-- R89, R90: writes `ACC16`. -/
def State.setAcc16 (s : State) (v : Half) : State := { s with acc16 := v }

/-- Leaves `ACC8` unspecified: a free value, drawn afresh (70 R204, 93 U2; assumption 6). -/
def State.spoilAcc8 (s : State) : State :=
  { s with acc8 := Config.freeAcc8 s.draws, draws := s.draws + 1 }

/-- Leaves `ACC16` unspecified (70 R204, 93 U2; assumption 6). -/
def State.spoilAcc16 (s : State) : State :=
  { s with acc16 := Config.freeAcc16 s.draws, draws := s.draws + 1 }

/-- R150: all four id registers together, and `IDS_WRITTEN`. -/
def State.writeIds (s : State) (ids : Ids) : State := { s with ids := ids, idsWritten := true }

/-! ## Admission of a request (60 R184) -/

/-- An operation is in progress, the handling of an MSG included (43 R154). -/
def State.busy (s : State) : Bool := decide (s.activity ≠ .idle)

/-- An operand buffer of `len` bytes is longer than `BUF_MAX` (93 U8). -/
def State.tooLong (s : State) (len : Nat) : Bool :=
  match s.bufMax with
  | none => false
  | some max => decide (max < len)

/-- The refusal of an admissible-looking request, if any: `Busy` first, then `IdsUnset` for an operation that reads the
ids and `BufferTooLong` for one that is given a buffer of `len` bytes; where both hold the spec does not say which is
reported (assumption 10). "A refusal (rule R184) is decided before any of these" (60 R185). -/
def State.refusal (s : State) (readsIds : Bool) (len : Nat) : Option RefusalReason :=
  if s.busy then some .busy
  else match readsIds && !s.idsWritten, s.tooLong len with
    | false, false => none
    | true, false => some .idsUnset
    | false, true => some .bufferTooLong
    | true, true => some (if Config.idsUnsetFirst then .idsUnset else .bufferTooLong)

/-- Runs an operation that leaves `done`, or refuses it. -/
def State.perform (s : State) (readsIds : Bool) (len : Nat) (done : State) : StepOutcome :=
  match s.refusal readsIds len with
  | some r => .next (s.refuse r)
  | none => .next done

/-- A request whose bytes are no instruction: `Busy` while an operation is in progress, `UnknownOperation` for an `op` of
0x11..0x1F, and no meaning for bytes that are no request at all (60 R184; assumption 5). -/
def State.rejectRequest (s : State) (e : DecodeError) : StepOutcome :=
  if s.busy then .next (s.refuse .busy)
  else match e with
    | .unknownOperation _ => .next (s.refuse .unknownOperation)
    | .noOperation => .refused .malformedRequest
    | .operandsMissing _ => .refused .malformedRequest
    | .frameTooShort => .refused .malformedRequest
    | .noFrameRow => .refused .malformedRequest

/-! ## PROCESS_ALL's loop (41 R106) -/

/-- `buffer[pos .. len(buffer))`. -/
def Scan.rest (sc : Scan) : List Byte := sc.buffer.drop sc.pos

/-- `min`: `PARTIAL_MIN` 8 if `allow_partial`, else 0. -/
def Scan.min (sc : Scan) : Nat := if sc.allowPartial then 8 else 0

/-- The loop's head: another turn while more than `min` bytes remain, else the normal end. -/
def State.loop (s : State) (sc : Scan) : State :=
  if sc.min < sc.rest.length then { s with activity := .scanning sc }
  else s.finish (.remaining sc.rest)

/-- The loop's tail, after a PROCESS_ONE that returned with `n` bytes consumed. -/
def State.afterOne (s : State) (sc : Scan) (n : Nat) : State :=
  if n = 0 then
    if sc.allowPartial then s.finish (.remaining sc.rest) else s.raise .stuckConsumption
  else s.loop { sc with pos := sc.pos + n }

/-- The host has handled the MSG; the block goes on (43 R153). -/
def State.resume (s : State) (r : Resume) : State :=
  match r with
  | .result v => s.finish v
  | .advance sc n => s.afterOne sc n

/-! ## Reset (70 R200) -/

/-- The reset input: every piece of state at its reset value; an operation in progress is abandoned without a result.
What the host has already been given stands, what it will do is its own, and neither the parameter nor the counter of
free values is state of the block (assumption 13). -/
def State.assertReset (s : State) : State :=
  { State.reset with host := s.host, outputs := s.outputs, draws := s.draws, bufMax := s.bufMax }

end Sys2Proof.Machine
end

