-- ==== Sys2Proof/Machine/ConfigOps.lean ====
section
/-! DEFINITION. Family 4: the one configuration operation (43_config_and_host R150). -/

namespace Sys2Proof.Machine

/-- SET_IDS (R150): any values, equal ones included. -/
def execSetIds (conHard devHard : Byte) (conLogical devLogical : Half) (s : State) : StepOutcome :=
  s.perform false 0
    ((s.writeIds { conHard := conHard, devHard := devHard, conLogical := conLogical, devLogical := devLogical }).finish .none)

end Sys2Proof.Machine
end

