-- ==== Sys2Proof/Machine/Crc.lean ====
section
/-! DEFINITION. The CRC engine: the step functions and the message functions (40_crc R80 to R85). -/

namespace Sys2Proof.Machine

/-- `POLY8` (00_scope R5). -/
def poly8 : Byte := 0xD5#8

/-- `POLY16`. -/
def poly16 : Half := 0x1021#16

/-- `INIT8`. -/
def init8 : Byte := 0x00#8

/-- `INIT16`. -/
def init16 : Half := 0x0000#16

/-- R80: one round; the top bit is tested before the shift that discards it. -/
def crc8Round (a : Byte) : Byte := if a.getLsbD 7 then (a <<< 1) ^^^ poly8 else a <<< 1

/-- R80. -/
def crc8Step (acc b : Byte) : Byte := crc8Round^[8] (acc ^^^ b)

/-- R81. -/
def crc8 (bytes : List Byte) : Byte := bytes.foldl crc8Step init8

/-- R82: one round. -/
def crc16Round (a : Half) : Half := if a.getLsbD 15 then (a <<< 1) ^^^ poly16 else a <<< 1

/-- R82: the byte enters at the high byte. -/
def crc16Step (acc : Half) (b : Byte) : Half := crc16Round^[8] (acc ^^^ (b.zeroExtend 16 <<< 8))

/-- R83. -/
def crc16 (bytes : List Byte) : Half := bytes.foldl crc16Step init16

end Sys2Proof.Machine
end

