-- ==== Sys2Proof/Machine/CrcOps.lean ====
section
/-! DEFINITION. Family 1: the CRC operations (40_crc R86 to R93). None raises an error kind. -/

namespace Sys2Proof.Machine

/-- CRC8_CLR (R86). -/
def execCrc8Clr (s : State) : StepOutcome := s.perform false 0 ((s.setAcc8 init8).finish .none)

/-- CRC8_BYTE (R87): continues whatever `ACC8` holds. -/
def execCrc8Byte (b : Byte) (s : State) : StepOutcome :=
  s.perform false 0 ((s.setAcc8 (crc8Step s.acc8 b)).finish .none)

/-- CRC8_READ (R88): not destructive. -/
def execCrc8Read (s : State) : StepOutcome := s.perform false 0 (s.finish (.byte s.acc8))

/-- CRC8_MSG (R92): depends on the bytes alone; `ACC8` is left unspecified. -/
def execCrc8Msg (bytes : List Byte) (s : State) : StepOutcome :=
  s.perform false bytes.length (s.spoilAcc8.finish (.byte (crc8 bytes)))

/-- CRC16_CLR (R89). -/
def execCrc16Clr (s : State) : StepOutcome := s.perform false 0 ((s.setAcc16 init16).finish .none)

/-- CRC16_BYTE (R90). -/
def execCrc16Byte (b : Byte) (s : State) : StepOutcome :=
  s.perform false 0 ((s.setAcc16 (crc16Step s.acc16 b)).finish .none)

/-- CRC16_READ (R91): the result is a number. -/
def execCrc16Read (s : State) : StepOutcome := s.perform false 0 (s.finish (.half s.acc16))

/-- CRC16_MSG (R93): `ACC16` is left unspecified. -/
def execCrc16Msg (bytes : List Byte) (s : State) : StepOutcome :=
  s.perform false bytes.length (s.spoilAcc16.finish (.half (crc16 bytes)))

end Sys2Proof.Machine
end

