-- ==== Sys2Proof/Machine/Flags.lean ====
section
/-! DEFINITION. The block has no flags, condition codes or predicates: a comparison "is made inside one operation and its
outcome is that operation's result" (10_state R15). These are the comparisons: the two validators' checks, each giving
the first that fails (60 R185), `none` for Ok. -/

namespace Sys2Proof.Machine

/-- `known(a)` (R101). -/
def Ids.known (ids : Ids) (a : Byte) : Bool := a == ids.conHard || a == ids.devHard

/-- VALIDATE_HARD's checks, in the order of R101. -/
def hardError (ids : Ids) (h : HardHeader) : Option ErrorKind :=
  if h.startByte ≠ startByte then some .invalidStartByte
  else if h.crc8 ≠ h.calcCrc8 then some .invalidHardChecksum
  else if h.constBytes ≠ hardConst then some .invalidConstBytes
  else if ids.known h.fromHard = false ∨ ids.known h.toHard = false then some .invalidHardAddress
  else if h.fromHard = h.toHard then some .hardAddressCollision
  else none

/-- `logical_of(a)` (R104): the controller's binding is tried first. -/
def Ids.logicalOf (ids : Ids) (a : Byte) : Option Half :=
  if a = ids.conHard then some ids.conLogical
  else if a = ids.devHard then some ids.devLogical
  else none

/-- VALIDATE_SOFT's checks, in the order of R103. -/
def softError (ids : Ids) (h : HardHeader) (sh : SoftMessage) : Option ErrorKind :=
  if sh.crc16 ≠ sh.calcCrc16 then some .invalidSoftChecksum
  else if sh.constByte ≠ softConst then some .invalidSoftConst
  else match ids.logicalOf h.fromHard, ids.logicalOf h.toHard with
    | some ef, some et =>
      if sh.fromLogical ≠ ef ∨ sh.toLogical ≠ et then some .invalidSoftAddress else none
    | _, _ => some .invalidSoftAddress

end Sys2Proof.Machine
end

