-- ==== Sys2Proof/Machine/Operands.lean ====
section
/-! DEFINITION. Field extraction from a byte sequence: the two parsers as functions, the block's only way to read an
operand (20_memory R31, R44; 41 R100, R102). -/

namespace Sys2Proof.Machine

/-- `MemRead(S, off, n)` (00_scope R7). -/
def memRead (bytes : List Byte) (off n : Nat) : List Byte := (bytes.drop off).take n

/-- PARSE_HARD (R100): judges nothing but the length, and always computes the CRC-8 over bytes [0..7). -/
def parseHard (buf : List Byte) : Except ErrorKind HardHeader :=
  if buf.length < hardLen then .error .frameTooShort
  else
    let b := memRead buf 0 hardLen
    .ok { startByte := byteAt b 0
          toHard := byteAt b 1
          fromHard := byteAt b 2
          constBytes := le24 (byteAt b 3) (byteAt b 4) (byteAt b 5)
          payloadLength := byteAt b 6
          crc8 := byteAt b 7
          calcCrc8 := crc8 (slice b 0 7) }

/-- PARSE_SOFT (R102): the length match before the minimum, and always the CRC-16 over bytes [0 .. L-2). -/
def parseSoft (p : List Byte) (declaredLength : Byte) : Except ErrorKind SoftMessage :=
  let len := declaredLength.toNat
  if p.length ≠ len then .error .softLengthMismatch
  else if p.length < softMin then .error .softMessageTooShort
  else
    .ok { toLogical := le16 (byteAt p 0) (byteAt p 1)
          fromLogical := le16 (byteAt p 2) (byteAt p 3)
          functionCode := byteAt p 4
          constByte := le16 (byteAt p 5) (byteAt p 6)
          registerCount := byteAt p 7
          registerStart := le16 (byteAt p 8) (byteAt p 9)
          restMessage := slice p 10 (len - 2)
          crc16 := be16 (byteAt p (len - 2)) (byteAt p (len - 1))
          calcCrc16 := crc16 (slice p 0 (len - 2)) }

end Sys2Proof.Machine
end

