-- ==== Sys2Proof/Machine/Decoder.lean ====
section
/-! DEFINITION. Family 2: the frame decoder (41_frame_decode R100 to R113). -/

namespace Sys2Proof.Machine

/-! ## The four steps -/

/-- An operation's end: its value, or its error kind. -/
def State.deliver (s : State) (r : Except ErrorKind Value) : State :=
  match r with
  | .ok v => s.finish v
  | .error k => s.raise k

/-- A validator's end: Ok, or the first check that failed. -/
def State.verdict (s : State) (e : Option ErrorKind) : State :=
  match e with
  | none => s.finish .ok
  | some k => s.raise k

/-- PARSE_HARD (R100). `ACC8` is left unspecified whether it succeeds or not (10_state R21). -/
def execParseHard (buf : List Byte) (s : State) : StepOutcome :=
  s.perform false buf.length (s.spoilAcc8.deliver ((parseHard buf).map .header))

/-- VALIDATE_HARD (R101). -/
def execValidateHard (h : HardHeader) (s : State) : StepOutcome :=
  s.perform true 0 (s.verdict (hardError s.ids h))

/-- PARSE_SOFT (R102). `ACC16` is left unspecified whether it succeeds or not (10_state R21). -/
def execParseSoft (payload : List Byte) (declaredLength : Byte) (s : State) : StepOutcome :=
  s.perform false payload.length (s.spoilAcc16.deliver ((parseSoft payload declaredLength).map .message))

/-- VALIDATE_SOFT (R103). -/
def execValidateSoft (h : HardHeader) (sh : SoftMessage) (s : State) : StepOutcome :=
  s.perform true 0 (s.verdict (softError s.ids h sh))

/-! ## One frame (R105) -/

/-- How the frame at the head of a buffer fares. -/
inductive OneOutcome where
  /-- An error kind; no MSG. -/
  | raised (k : ErrorKind)
  /-- The wait path (R109): (0, buffer), no MSG. -/
  | waits
  /-- Delivered: the MSG's three parts (R110), and the result pair. -/
  | delivered (h : HardHeader) (sh : SoftMessage) (raw : List Byte) (n : Nat) (rest : List Byte)
  deriving DecidableEq, Repr

/-- PROCESS_ONE's body once the ids are known to be written (R105): the wait test stands after the hard header has
validated and before the soft message is parsed; the payload is a truncating slice. -/
def processFrame (ids : Ids) (buffer : List Byte) (allowPartial : Bool) : OneOutcome :=
  match parseHard buffer with
  | .error k => .raised k
  | .ok h =>
    match hardError ids h with
    | some k => .raised k
    | none =>
      let n := hardLen + h.payloadLength.toNat
      if allowPartial = true ∧ buffer.length < n then .waits
      else
        match parseSoft (slice buffer hardLen n) h.payloadLength with
        | .error k => .raised k
        | .ok sh =>
          match softError ids h sh with
          | some k => .raised k
          | none => .delivered h sh (buffer.take n) n (buffer.drop n)

/-- PROCESS_ONE on a state, ids written and accumulators already left unspecified. -/
def State.one (s : State) (buffer : List Byte) (allowPartial : Bool) : State :=
  match processFrame s.ids buffer allowPartial with
  | .raised k => s.raise k
  | .waits => s.finish (.consumed 0 buffer)
  | .delivered h sh raw n rest => s.emit h sh raw (.result (.consumed n rest))

/-- PROCESS_ONE (R105). -/
def execProcessOne (buffer : List Byte) (allowPartial : Bool) (s : State) : StepOutcome :=
  s.perform true buffer.length (s.spoilAcc8.spoilAcc16.one buffer allowPartial)

/-! ## All frames of a buffer (R106) -/

/-- PROCESS_ALL (R106): `pos <- 0` and the loop's head. The frames are processed at the cursor in the steps that
follow, one frame a step, each MSG handled by the host before the next (43 R153; assumption 11). -/
def execProcessAll (buffer : List Byte) (allowPartial : Bool) (s : State) : StepOutcome :=
  s.perform true buffer.length
    (s.spoilAcc8.spoilAcc16.loop { buffer := buffer, pos := 0, allowPartial := allowPartial })

/-- One turn of the loop: `PROCESS_ONE(buffer[pos .. len(buffer)), allow_partial)` on the bytes `bytes` at the cursor.
An error kind ends PROCESS_ALL with that kind; the wait path and a delivered frame go on to the loop's tail, the
latter once its MSG has been handled. PROCESS_ONE's own `IdsUnset` test stands first (assumption 17). -/
def State.turn (s : State) (sc : Scan) (bytes : List Byte) : State :=
  if s.idsWritten = false then { s with activity := .idle }.refuse .idsUnset
  else match processFrame s.ids bytes sc.allowPartial with
    | .raised k => s.raise k
    | .waits => s.afterOne sc 0
    | .delivered h sh raw n _ => s.emit h sh raw (.advance sc n)

/-! ## PROCESS_ALL as one function, for claims: the whole of R106's pseudocode -/

/-- The outputs of R106's loop from the cursor `pos` on, at most `fuel` turns: the MSG events in order, then the result or
the error kind. Each turn consumes 20 bytes or ends the loop, so `buffer.length` turns are always enough (R106 (e)). -/
def scanOutputs (ids : Ids) (sc : Scan) : Nat → List Output
  | 0 => [.value (.remaining sc.rest)]
  | fuel + 1 =>
    if sc.min < sc.rest.length then
      match processFrame ids sc.rest sc.allowPartial with
      | .raised k => [.error k]
      | .waits =>
        if sc.allowPartial then [.value (.remaining sc.rest)] else [.error .stuckConsumption]
      | .delivered h sh raw n _ => .msg h sh raw :: scanOutputs ids { sc with pos := sc.pos + n } fuel
    else [.value (.remaining sc.rest)]
termination_by structural fuel => fuel

/-- Everything a PROCESS_ALL gives the host. -/
def processAllOutputs (ids : Ids) (buffer : List Byte) (allowPartial : Bool) : List Output :=
  scanOutputs ids { buffer := buffer, pos := 0, allowPartial := allowPartial } buffer.length

end Sys2Proof.Machine
end

