-- ==== Sys2Proof/Machine/Encoder.lean ====
section
/-! DEFINITION. Family 3: the frame encoder (42_frame_encode R130 to R137). The builders read no state and raise no
error kind; both leave the accumulators unspecified (10_state R21). -/

namespace Sys2Proof.Machine

/-- The soft message of a built frame less its CRC-16 (R132). -/
def softBody (toLogical fromLogical : Half) (fn : Byte) (start : Half) (count : Byte) (data : List Byte) : List Byte :=
  [lo8 toLogical, hi8 toLogical, lo8 fromLogical, hi8 fromLogical, fn, 0x80#8, 0x00#8, count, lo8 start, hi8 start] ++
    data

/-- The soft message, its CRC-16 appended high byte first (R132). -/
def softWithCrc (p : List Byte) : List Byte := p ++ [hi8 (crc16 p), lo8 (crc16 p)]

/-- The hard header in front of a soft message (R132). -/
def headerFor (toHard fromHard : Byte) (p : List Byte) : List Byte :=
  let hd := [0x69#8, toHard, fromHard, 0x84#8, 0x00#8, 0x00#8, BitVec.ofNat 8 p.length]
  hd ++ [crc8 hd]

/-- `build_frame` (R132), `none` where it refuses `PayloadTooLong` (R133). -/
def buildFrame (toHard fromHard : Byte) (toLogical fromLogical : Half) (fn : Byte) (start : Half) (count : Byte)
    (data : List Byte) : Option (List Byte) :=
  let p := softWithCrc (softBody toLogical fromLogical fn start count data)
  if 255 < p.length then none else some (headerFor toHard fromHard p ++ p)

/-- A builder's end: the frame with the accumulators unspecified, or a refusal that changes nothing (60 R184, R133). -/
def State.built (s : State) (frame : Option (List Byte)) : State :=
  match frame with
  | some bytes => s.spoilAcc8.spoilAcc16.finish (.frame bytes)
  | none => s.refuse .payloadTooLong

/-- BUILD_READ (R130): function code 0x40, no data. -/
def execBuildRead (devHard conHard : Byte) (devLogical conLogical start : Half) (count : Byte) (s : State) : StepOutcome :=
  s.perform false 0 (s.built (buildFrame devHard conHard devLogical conLogical 0x40#8 start count []))

/-- BUILD_WRITE (R131): function code 0x60, the values low byte first; `count` is copied, not checked (R134). -/
def execBuildWrite (devHard conHard : Byte) (devLogical conLogical start : Half) (count : Byte) (values : List Half)
    (s : State) : StepOutcome :=
  s.perform false 0
    (s.built (buildFrame devHard conHard devLogical conLogical 0x60#8 start count (bytesOfHalves values)))

end Sys2Proof.Machine
end

