-- ==== Sys2Proof/Machine/Frames.lean ====
section
/-! DEFINITION. The frames: what the block does with each encoded frame at the cursor of a running PROCESS_ALL
(30_encoding R61 to R66, 41 R105, R106). The function code changes nothing but the frame's bytes (R66). -/

namespace Sys2Proof.Machine

/-- The turn of PROCESS_ALL's loop that finds these bytes at its cursor. -/
def State.runFrame (s : State) (bytes : List Byte) : StepOutcome :=
  match s.activity with
  | .scanning sc => .next (s.turn sc bytes)
  | .idle => .fault .noFrameCursor
  | .handling _ => .fault .noFrameCursor

/-- READ_REQ (R61). -/
def execReadReq (f : Frame) (s : State) : StepOutcome := s.runFrame (encodeFrame 0x40#8 f)

/-- READ_RESP (R62). -/
def execReadResp (f : Frame) (s : State) : StepOutcome := s.runFrame (encodeFrame 0x50#8 f)

/-- WRITE_PUSH (R63). -/
def execWritePush (f : Frame) (s : State) : StepOutcome := s.runFrame (encodeFrame 0x60#8 f)

/-- WRITE_ACK (R65). -/
def execWriteAck (f : Frame) (s : State) : StepOutcome := s.runFrame (encodeFrame 0x70#8 f)

/-- FRAME_OTHER (R66): "delivered to the handler exactly like a known one". -/
def execFrameOther (fn : Byte) (f : Frame) (s : State) : StepOutcome := s.runFrame (encodeFrame fn f)

end Sys2Proof.Machine
end

