-- ==== Sys2Proof/Machine/Dispatch.lean ====
section
/-! DEFINITION. One arm per instruction. -/

namespace Sys2Proof.Machine

def exec (i : Instr) (s : State) : Host.Outcome State Fault Refusal :=
  match i with
  | .readReq f => Sys2Proof.Machine.execReadReq f s
  | .readResp f => Sys2Proof.Machine.execReadResp f s
  | .writePush f => Sys2Proof.Machine.execWritePush f s
  | .writeAck f => Sys2Proof.Machine.execWriteAck f s
  | .frameOther fn f => Sys2Proof.Machine.execFrameOther fn f s
  | .crc8Clr => Sys2Proof.Machine.execCrc8Clr s
  | .crc8Byte b => Sys2Proof.Machine.execCrc8Byte b s
  | .crc8Read => Sys2Proof.Machine.execCrc8Read s
  | .crc8Msg bytes => Sys2Proof.Machine.execCrc8Msg bytes s
  | .crc16Clr => Sys2Proof.Machine.execCrc16Clr s
  | .crc16Byte b => Sys2Proof.Machine.execCrc16Byte b s
  | .crc16Read => Sys2Proof.Machine.execCrc16Read s
  | .crc16Msg bytes => Sys2Proof.Machine.execCrc16Msg bytes s
  | .parseHard buf => Sys2Proof.Machine.execParseHard buf s
  | .validateHard h => Sys2Proof.Machine.execValidateHard h s
  | .parseSoft payload n => Sys2Proof.Machine.execParseSoft payload n s
  | .validateSoft h sh => Sys2Proof.Machine.execValidateSoft h sh s
  | .processOne buffer p => Sys2Proof.Machine.execProcessOne buffer p s
  | .processAll buffer p => Sys2Proof.Machine.execProcessAll buffer p s
  | .buildRead d c dl cl st n => Sys2Proof.Machine.execBuildRead d c dl cl st n s
  | .buildWrite d c dl cl st n values => Sys2Proof.Machine.execBuildWrite d c dl cl st n values s
  | .setIds c d cl dl => Sys2Proof.Machine.execSetIds c d cl dl s

end Sys2Proof.Machine
end

