-- ==== Sys2Proof/Machine/Fetch.lean ====
section
/-! DEFINITION. What a step does around `exec`: the host's act, then the fetch of a request from the command interface
or of the frame at the cursor. -/

namespace Sys2Proof.Machine

/-- What a fetch finds. -/
inductive Fetched where
  /-- An instruction, to be executed on this state. -/
  | run (i : Instr) (s : State)
  /-- No instruction: the step's outcome. -/
  | answer (o : StepOutcome)

/-- The block's own move when the host asks nothing: the frame at the cursor if PROCESS_ALL is running, or the error
kind or wait path of bytes that match no frame row (30_encoding R67); otherwise nothing happens (60 R189, 43 R153). -/
def State.ownMove (s : State) : Fetched :=
  match s.activity with
  | .scanning sc =>
    match decode .buffer sc.rest with
    | .ok i => .run i s
    | .error _ => .answer (.next (s.turn sc sc.rest))
  | .idle => .answer (.next s)
  | .handling _ => .answer (.next s)

/-- The host's act on a state that has consumed it. -/
def State.respond (s : State) (a : HostAct) : Fetched :=
  match a with
  | .idle => s.ownMove
  | .ack =>
    match s.activity with
    | .handling r => .answer (.next (s.resume r))
    | .idle => s.ownMove
    | .scanning _ => s.ownMove
  | .request bytes =>
    match decode .command bytes with
    | .ok i => .run i s
    | .error e => .answer (s.rejectRequest e)
  | .reset => .answer (.next s.assertReset)

/-- One fetch. A host with no act left does nothing more. -/
def State.fetch (s : State) : Fetched :=
  match s.host with
  | [] => s.ownMove
  | a :: later => { s with host := later }.respond a

/-- A table word placed where the next step fetches it: a request as the host's next act, or, for a frame, a PROCESS_ALL
in strict mode whose cursor stands on the frame's bytes, with a host that asks nothing at that step (assumption 18). -/
def State.placeWord (s : State) (nbits w : Nat) : State :=
  match tableSpace nbits with
  | .command => { s with host := .request (tableBytes nbits w) :: s.host }
  | .buffer =>
    { s with
      host := .idle :: s.host
      activity := .scanning { buffer := tableBytes nbits w, pos := 0, allowPartial := false } }

end Sys2Proof.Machine
end

