-- ==== Sys2Proof/Machine/Step.lean ====
section
/-! DEFINITION. One step, and the placing of a table word for the next step. -/

namespace Sys2Proof.Machine

/-- One step: the host's act and the fetch, then the instruction fetched, if any. -/
def step (s : State) : Host.Outcome State Fault Refusal :=
  match s.fetch with
  | .run i t => exec i t
  | .answer o => o

/-- The state with a table word where the next step fetches it (assumption 18). -/
def State.withFetchWord (s : State) (nbits w : Nat) : State := s.placeWord nbits w

end Sys2Proof.Machine
end

