-- ==== Sys2Proof/Safety.lean ====
section
/-! DEFINITION. What counts as a safe state and a valid delivery, in the terms the statements use. -/

namespace Sys2Proof.Machine

/-- A request of this kind is not refused as `Busy`, `IdsUnset` or `BufferTooLong` (60 R184): no operation is in progress,
the ids are written if it reads them, and its buffer of `len` bytes is within `BUF_MAX`. -/
structure State.Admits (s : State) (readsIds : Bool) (len : Nat) : Prop where
  idle : s.activity = .idle
  ids : readsIds = true → s.idsWritten = true
  fits : ∀ max, s.bufMax = some max → len ≤ max

/-- The activities a run can reach: an operation in progress has its ids; PROCESS_ALL about to process a frame has more
than `min` bytes left (R106); a frame that was delivered has consumed at least 20 bytes, all of them present (R105,
10_state R14). -/
def Activity.Consistent (a : Activity) (idsWritten : Bool) : Prop :=
  match a with
  | .idle => True
  | .scanning sc => idsWritten = true ∧ sc.min < sc.rest.length
  | .handling (.result v) => idsWritten = true ∧ ∃ n rest, v = .consumed n rest ∧ 20 ≤ n
  | .handling (.advance sc n) => idsWritten = true ∧ 20 ≤ n ∧ sc.pos + n ≤ sc.buffer.length

/-- What an MSG event promises (43 R152, 41 R105, R110; 30_encoding R51, R53, R55, R56): `raw` is one frame and nothing
else, its records are its bytes, both checksums and both constants are right, and its two hard addresses differ. -/
structure ValidDelivery (h : HardHeader) (sh : SoftMessage) (raw : List Byte) : Prop where
  length : raw.length = 8 + h.payloadLength.toNat
  minimum : 12 ≤ h.payloadLength.toNat
  start : h.startByte = 0x69#8 ∧ byteAt raw 0 = 0x69#8
  addresses : h.toHard = byteAt raw 1 ∧ h.fromHard = byteAt raw 2 ∧ h.toHard ≠ h.fromHard
  hardConstant : h.constBytes = 0x000084#24 ∧ raw.extract 3 6 = [0x84#8, 0x00#8, 0x00#8]
  declared : h.payloadLength = byteAt raw 6
  hardChecksum : h.crc8 = byteAt raw 7 ∧ h.calcCrc8 = h.crc8 ∧ h.crc8 = crc8 (raw.take 7)
  logical : sh.toLogical = le16 (byteAt raw 8) (byteAt raw 9) ∧ sh.fromLogical = le16 (byteAt raw 10) (byteAt raw 11)
  code : sh.functionCode = byteAt raw 12
  softConstant : sh.constByte = 0x0080#16 ∧ byteAt raw 13 = 0x80#8 ∧ byteAt raw 14 = 0x00#8
  registers : sh.registerCount = byteAt raw 15 ∧ sh.registerStart = le16 (byteAt raw 16) (byteAt raw 17)
  payload : raw = raw.take 18 ++ sh.restMessage ++ [hi8 sh.crc16, lo8 sh.crc16]
  softChecksum : sh.calcCrc16 = sh.crc16 ∧ sh.crc16 = crc16 ((raw.drop 8).dropLast.dropLast)

/-- An output a run can deliver: an MSG is a valid delivery, and the two kinds the block never raises are not raised
(R108, R183). -/
def Output.Sound (o : Output) : Prop :=
  match o with
  | .msg h sh raw => ValidDelivery h sh raw
  | .value _ => True
  | .error k => k ≠ .stuckConsumption ∧ k ≠ .decodeOutOfBounds
  | .refused _ => True

/-- The invariant every step keeps. -/
structure State.Inv (s : State) : Prop where
  activity : s.activity.Consistent s.idsWritten
  outputs : ∀ o ∈ s.outputs, o.Sound

/-! ## What the tables of the spec say of a byte string, without the block's records -/

/-- 30_encoding R51, R55: the hard header at the head of a byte string. -/
def headerAt (F : List Byte) : HardHeader :=
  { startByte := byteAt F 0
    toHard := byteAt F 1
    fromHard := byteAt F 2
    constBytes := le24 (byteAt F 3) (byteAt F 4) (byteAt F 5)
    payloadLength := byteAt F 6
    crc8 := byteAt F 7
    calcCrc8 := crc8 (F.take 7) }

/-- R53, R55, R56: the soft message behind it, at the frame offsets of R53's last column. -/
def messageAt (F : List Byte) : SoftMessage :=
  let len := (byteAt F 6).toNat
  { toLogical := le16 (byteAt F 8) (byteAt F 9)
    fromLogical := le16 (byteAt F 10) (byteAt F 11)
    functionCode := byteAt F 12
    constByte := le16 (byteAt F 13) (byteAt F 14)
    registerCount := byteAt F 15
    registerStart := le16 (byteAt F 16) (byteAt F 17)
    restMessage := (F.drop 18).take (len - 12)
    crc16 := be16 (byteAt F (6 + len)) (byteAt F (7 + len))
    calcCrc16 := crc16 ((F.drop 8).take (len - 2)) }

/-- `a` is one of the two configured hard addresses. -/
def Ids.Configured (ids : Ids) (a : Byte) : Prop := a = ids.conHard ∨ a = ids.devHard

/-- `v` is the logical id bound to hard address `a` (R104). -/
def Ids.Bound (ids : Ids) (a : Byte) (v : Half) : Prop :=
  (a = ids.conHard ∧ v = ids.conLogical) ∨ (a ≠ ids.conHard ∧ a = ids.devHard ∧ v = ids.devLogical)

/-- The eleven rows of 30_encoding R67, as conditions on the bytes `F` at the head of a buffer: row `k` holds of `F`. -/
def IllegalRow (ids : Ids) (F : List Byte) (row : Nat) : Prop :=
  let len := (byteAt F 6).toNat
  match row with
  | 1 => F.length < 8
  | 2 => byteAt F 0 ≠ 0x69#8
  | 3 => byteAt F 7 ≠ crc8 (F.take 7)
  | 4 => ¬ (byteAt F 3 = 0x84#8 ∧ byteAt F 4 = 0x00#8 ∧ byteAt F 5 = 0x00#8)
  | 5 => ¬ ids.Configured (byteAt F 1) ∨ ¬ ids.Configured (byteAt F 2)
  | 6 => byteAt F 1 = byteAt F 2
  | 7 => F.length < 8 + len
  | 8 => len < 12
  | 9 => [byteAt F (6 + len), byteAt F (7 + len)]
      ≠ [hi8 (crc16 ((F.drop 8).take (len - 2))), lo8 (crc16 ((F.drop 8).take (len - 2)))]
  | 10 => ¬ (byteAt F 13 = 0x80#8 ∧ byteAt F 14 = 0x00#8)
  | 11 => ¬ ids.Bound (byteAt F 1) (le16 (byteAt F 8) (byteAt F 9)) ∨
      ¬ ids.Bound (byteAt F 2) (le16 (byteAt F 10) (byteAt F 11))
  | _ => False

/-- Row `row` is the first of R67's table that holds of `F` ("the first that applies is the one reported"). -/
def FirstIllegal (ids : Ids) (F : List Byte) (row : Nat) : Prop :=
  IllegalRow ids F row ∧ ∀ k < row, ¬ IllegalRow ids F k

/-- The error kind of a row of R67. -/
def rowKind (row : Nat) : ErrorKind :=
  match row with
  | 1 => .frameTooShort
  | 2 => .invalidStartByte
  | 3 => .invalidHardChecksum
  | 4 => .invalidConstBytes
  | 5 => .invalidHardAddress
  | 6 => .hardAddressCollision
  | 7 => .softLengthMismatch
  | 8 => .softMessageTooShort
  | 9 => .invalidSoftChecksum
  | 10 => .invalidSoftConst
  | _ => .invalidSoftAddress

/-- No row of R67 holds: the bytes at the head of the buffer are a frame. -/
def Legal (ids : Ids) (F : List Byte) : Prop := ∀ row, ¬ IllegalRow ids F row

/-! ## Operations, errors, the cursor -/

/-- The `op` of an operation (30_encoding R74); frames have none. -/
def opNumber : Instr → Byte
  | .crc8Clr => 0x00#8
  | .crc8Byte _ => 0x01#8
  | .crc8Read => 0x02#8
  | .crc8Msg _ => 0x03#8
  | .crc16Clr => 0x04#8
  | .crc16Byte _ => 0x05#8
  | .crc16Read => 0x06#8
  | .crc16Msg _ => 0x07#8
  | .parseHard _ => 0x08#8
  | .validateHard _ => 0x09#8
  | .parseSoft _ _ => 0x0A#8
  | .validateSoft _ _ => 0x0B#8
  | .processOne _ _ => 0x0C#8
  | .processAll _ _ => 0x0D#8
  | .buildRead _ _ _ _ _ _ => 0x0E#8
  | .buildWrite _ _ _ _ _ _ _ => 0x0F#8
  | .setIds _ _ _ _ => 0x10#8
  | .readReq _ => 0xFF#8
  | .readResp _ => 0xFF#8
  | .writePush _ => 0xFF#8
  | .writeAck _ => 0xFF#8
  | .frameOther _ _ => 0xFF#8

/-- The error kinds an operation, or a frame at PROCESS_ALL's cursor, may deliver (60_exceptions R170). -/
def MayRaise (i : Instr) (k : ErrorKind) : Prop :=
  match i with
  | .parseHard _ => k.code = 1
  | .validateHard _ => 2 ≤ k.code ∧ k.code ≤ 6
  | .parseSoft _ _ => 7 ≤ k.code ∧ k.code ≤ 8
  | .validateSoft _ _ => 9 ≤ k.code ∧ k.code ≤ 11
  | .processOne _ _ => k.code ≤ 11
  | .processAll _ _ => k.code ≤ 12
  | .readReq _ => k.code ≤ 12
  | .readResp _ => k.code ≤ 12
  | .writePush _ => k.code ≤ 12
  | .writeAck _ => k.code ≤ 12
  | .frameOther _ _ => k.code ≤ 12
  | .crc8Clr => False
  | .crc8Byte _ => False
  | .crc8Read => False
  | .crc8Msg _ => False
  | .crc16Clr => False
  | .crc16Byte _ => False
  | .crc16Read => False
  | .crc16Msg _ => False
  | .buildRead _ _ _ _ _ _ => False
  | .buildWrite _ _ _ _ _ _ _ => False
  | .setIds _ _ _ _ => False

/-- The running PROCESS_ALL, with its cursor (10_state R14). -/
def Activity.cursor : Activity → Option Scan
  | .idle => none
  | .scanning sc => some sc
  | .handling (.result _) => none
  | .handling (.advance sc _) => some sc

/-- The host asks nothing at this step: it has no act left, or its next act is idle, or an ack that finds no MSG to answer
(assumption 2). -/
def State.Unasked (s : State) : Prop :=
  s.host = [] ∨ ∃ later, s.host = .idle :: later ∨ (s.host = .ack :: later ∧ ∀ r, s.activity ≠ .handling r)

/-! ## Reading outcomes -/

/-- Everything the host has been given after a step that goes on. -/
def outputsOf (o : StepOutcome) : List Output :=
  match o with
  | .next t => t.outputs
  | .fault _ => []
  | .refused _ => []

/-- The sequence with bit `k` flipped, bit `k % 8` of byte `k / 8` (41 R114). -/
def flipBit (F : List Byte) (k : Nat) : List Byte := F.modify (k / 8) fun b => b ^^^ (1#8 <<< (k % 8))

/-- The little-endian bytes of words (42 R131). -/
def wordBytes (values : List Half) : List Byte := values.flatMap fun v => [lo8 v, hi8 v]

/-- The source's scenario frame with its two checksums (95 V10). -/
def scenarioFrame : List Byte :=
  [0x69#8, 0x02#8, 0x01#8, 0x84#8, 0x00#8, 0x00#8, 0x0C#8, 0xF6#8, 0x02#8, 0x00#8, 0x01#8, 0x00#8, 0x40#8, 0x80#8,
   0x00#8, 0x5C#8, 0x78#8, 0x00#8, 0x7B#8, 0xC6#8]

end Sys2Proof.Machine
end

