-- ==== Sys2Proof/Certificates/Slice0/Obligations.lean ====
section
/-! DEFINITION. The statements for the provers. Each docstring names the rule it formalises; where a clause rests on a
choice of the model, it names the row of notes/assumptions. -/

open Sys2Proof Sys2Proof.Machine

/-! ## Reset -/

/-- 10_state R20: the values the spec gives for reset, seen in the state and through the two reads; no cursor, nothing
pending; and the cursor is 0 at the start of each PROCESS_ALL. The id registers have no value after reset in the spec, so
nothing is said of them. -/
def Obligations.ResetClearsAccumulatorsAndIdsWritten : Prop :=
  State.reset.acc8 = 0x00#8 ∧ State.reset.acc16 = 0x0000#16 ∧ State.reset.idsWritten = false ∧
  State.reset.activity = .idle ∧ State.reset.outputs = [] ∧
  outputsOf (exec .crc8Read State.reset) = [Output.value (.byte 0x00#8)] ∧
  outputsOf (exec .crc16Read State.reset) = [Output.value (.half 0x0000#16)] ∧
  ∀ (s t : State) (buffer : List Byte) (allowPartial : Bool) (sc : Scan), s.activity = .idle →
    exec (.processAll buffer allowPartial) s = .next t → t.activity = .scanning sc → sc.pos = 0

/-- 70 R200: the reset input puts every piece of state at the value of R20, whatever was in progress; no result and no MSG is
delivered, what was delivered stands, and the block is idle and accepts an operation at once. -/
def Obligations.ResetInputAbandonsTheOperation : Prop :=
  ∀ (s : State) (later : List HostAct), s.host = .reset :: later →
    ∃ t, step s = .next t ∧ t.acc8 = 0x00#8 ∧ t.acc16 = 0x0000#16 ∧ t.idsWritten = false ∧ t.activity = .idle ∧
      t.outputs = s.outputs ∧
      exec .crc8Read t = .next { t with outputs := t.outputs ++ [Output.value (.byte 0x00#8)] }

/-! ## Family 1: the CRC generators -/

/-- 40 R80, R81, R82, R83: a round doubles the accumulator, drops the bit shifted out and XORs the polynomial in when that
bit was set; a step is eight rounds on the accumulator with the byte XORed in (at the high byte for the CRC-16); the
functions fold the step over the bytes in order from 0. -/
def Obligations.CrcFunctionsAreTheBitwiseFold : Prop :=
  (∀ a : Byte, (crc8Round a).toNat =
    if 128 ≤ a.toNat then (2 * a.toNat - 256) ^^^ 0xD5 else 2 * a.toNat) ∧
  (∀ a : Half, (crc16Round a).toNat =
    if 32768 ≤ a.toNat then (2 * a.toNat - 65536) ^^^ 0x1021 else 2 * a.toNat) ∧
  (∀ acc b : Byte, crc8Step acc b =
    crc8Round (crc8Round (crc8Round (crc8Round (crc8Round (crc8Round (crc8Round (crc8Round (acc ^^^ b))))))))) ∧
  (∀ (acc : Half) (b : Byte), crc16Step acc b =
    crc16Round (crc16Round (crc16Round (crc16Round (crc16Round (crc16Round (crc16Round (crc16Round
      (acc ^^^ BitVec.ofNat 16 (256 * b.toNat)))))))))) ∧
  crc8 [] = 0x00#8 ∧ crc16 [] = 0x0000#16 ∧
  (∀ (B : List Byte) (b : Byte), crc8 (B ++ [b]) = crc8Step (crc8 B) b ∧ crc16 (B ++ [b]) = crc16Step (crc16 B) b)

/-- 40 R86, R87, R88: CRC8_CLR, CRC8_BYTE, CRC8_READ: `op`, effect, result and examples. -/
def Obligations.Crc8OperationsReadAndWriteAcc8 : Prop :=
  (encode .crc8Clr).head? = some 0x00#8 ∧ (∀ b, (encode (.crc8Byte b)).head? = some 0x01#8) ∧
  (encode .crc8Read).head? = some 0x02#8 ∧
  (∀ s : State, s.activity = .idle →
    exec .crc8Clr s = .next { s with acc8 := 0x00#8, outputs := s.outputs ++ [Output.value .none] } ∧
    (∀ b, exec (.crc8Byte b) s =
      .next { s with acc8 := crc8Step s.acc8 b, outputs := s.outputs ++ [Output.value .none] }) ∧
    exec .crc8Read s = .next { s with outputs := s.outputs ++ [Output.value (.byte s.acc8)] }) ∧
  crc8Step 0x00#8 0x00#8 = 0x00#8 ∧
  (List.range 9).map (fun k => crc8Round^[k] 0x80#8) =
    [0x80#8, 0xD5#8, 0x7F#8, 0xFE#8, 0x29#8, 0x52#8, 0xA4#8, 0x9D#8, 0xEF#8] ∧
  (List.range 8).map (fun k => crc8 (scenarioFrame.take k)) =
    [0x00#8, 0xC5#8, 0x26#8, 0xF0#8, 0x95#8, 0x96#8, 0x3C#8, 0xF6#8]

/-- 40 R89, R90, R91: CRC16_CLR, CRC16_BYTE, CRC16_READ: `op`, effect, result and examples. -/
def Obligations.Crc16OperationsReadAndWriteAcc16 : Prop :=
  (encode .crc16Clr).head? = some 0x04#8 ∧ (∀ b, (encode (.crc16Byte b)).head? = some 0x05#8) ∧
  (encode .crc16Read).head? = some 0x06#8 ∧
  (∀ s : State, s.activity = .idle →
    exec .crc16Clr s = .next { s with acc16 := 0x0000#16, outputs := s.outputs ++ [Output.value .none] } ∧
    (∀ b, exec (.crc16Byte b) s =
      .next { s with acc16 := crc16Step s.acc16 b, outputs := s.outputs ++ [Output.value .none] }) ∧
    exec .crc16Read s = .next { s with outputs := s.outputs ++ [Output.value (.half s.acc16)] }) ∧
  crc16Step 0x0000#16 0x00#8 = 0x0000#16 ∧
  (List.range 9).map (fun k => crc16Round^[k] 0x8000#16) =
    [0x8000#16, 0x1021#16, 0x2042#16, 0x4084#16, 0x8108#16, 0x1231#16, 0x2462#16, 0x48C4#16, 0x9188#16] ∧
  (List.range 9).map (fun k => crc16Round^[k] 0x0200#16) =
    [0x0200#16, 0x0400#16, 0x0800#16, 0x1000#16, 0x2000#16, 0x4000#16, 0x8000#16, 0x1021#16, 0x2042#16] ∧
  (List.range 11).map (fun k => crc16 ((scenarioFrame.drop 8).take k)) =
    [0x0000#16, 0x2042#16, 0x6662#16, 0x7E41#16, 0xDE59#16, 0x3B77#16, 0x61B0#16, 0xCC87#16, 0x04B9#16, 0x061B#16,
     0x7BC6#16]

/-- 40 R92, R93: CRC8_MSG and CRC16_MSG: `op`, result, examples. The one accumulator is left at some value, and nothing
else changes (`draws` is the model's counter of free values). -/
def Obligations.MessageCrcsDependOnTheBytesAlone : Prop :=
  (∀ bytes, (encode (.crc8Msg bytes)).head? = some 0x03#8 ∧ (encode (.crc16Msg bytes)).head? = some 0x07#8) ∧
  (∀ (s : State) (bytes : List Byte), s.Admits false bytes.length →
    (∃ a d, exec (.crc8Msg bytes) s =
      .next { s with acc8 := a, draws := d, outputs := s.outputs ++ [Output.value (.byte (crc8 bytes))] }) ∧
    ∃ a d, exec (.crc16Msg bytes) s =
      .next { s with acc16 := a, draws := d, outputs := s.outputs ++ [Output.value (.half (crc16 bytes))] }) ∧
  crc8 [] = 0x00#8 ∧ crc16 [] = 0x0000#16 ∧ crc8 [0x01#8] = 0xD5#8 ∧ crc16 [0x01#8] = 0x1021#16

/-- 93 U2, 70 R204, 10_state R21: which operations leave an accumulator unspecified, and that the value is a free value, drawn
afresh (the counter moves on). The form of the free value is the model's (assumption 6). -/
def Obligations.UnspecifiedAccumulatorsAreFreeValues : Prop :=
  ∀ (s t : State) (i : Instr), exec i s = .next t → (∀ r, t.outputs ≠ s.outputs ++ [Output.refused r]) →
    ((∃ b, i = .crc8Msg b) ∨ (∃ b, i = .parseHard b) → t.acc8 = Config.freeAcc8 s.draws ∧ t.draws = s.draws + 1) ∧
    ((∃ b, i = .crc16Msg b) ∨ (∃ p n, i = .parseSoft p n) → t.acc16 = Config.freeAcc16 s.draws ∧ t.draws = s.draws + 1) ∧
    ((∃ b p, i = .processOne b p) ∨ (∃ b p, i = .processAll b p) ∨ (∃ d c dl cl st n, i = .buildRead d c dl cl st n) ∨
      (∃ d c dl cl st n v, i = .buildWrite d c dl cl st n v) →
      t.acc8 = Config.freeAcc8 s.draws ∧ t.acc16 = Config.freeAcc16 (s.draws + 1) ∧ t.draws = s.draws + 2)

/-- 40 section 2: the sequence CLR; BYTE b0; ...; BYTE b(n-1); READ, issued as requests, returns `crc8([b0 .. b(n-1)])`, and
likewise for the CRC-16; every request but the last returns no value. That a request's bytes are `op` and then the operand
byte is the model's layout (assumption 4), and the host's acts are the model's (assumption 2). -/
def Obligations.StreamedBytesGiveTheMessageCrc : Prop :=
  ∀ (s : State) (bytes : List Byte), s.activity = .idle →
    (s.host = HostAct.request [0x00#8] :: (bytes.map (fun b => HostAct.request [0x01#8, b]) ++ [HostAct.request [0x02#8]]) →
      ∃ t, Host.Core.run core (bytes.length + 2) s = .next t ∧ t.host = [] ∧
        t.outputs = s.outputs ++ List.replicate (bytes.length + 1) (Output.value Value.none) ++ [Output.value (.byte (crc8 bytes))]) ∧
    (s.host = HostAct.request [0x04#8] :: (bytes.map (fun b => HostAct.request [0x05#8, b]) ++ [HostAct.request [0x06#8]]) →
      ∃ t, Host.Core.run core (bytes.length + 2) s = .next t ∧ t.host = [] ∧
        t.outputs = s.outputs ++ List.replicate (bytes.length + 1) (Output.value Value.none) ++ [Output.value (.half (crc16 bytes))])

/-- 40 R95 (a), (b), (c): leading zero bytes change nothing and the CRC of a concatenation is the fold over the second part
from the CRC of the first. -/
def Obligations.CrcComposesAndIgnoresLeadingZeros : Prop :=
  ∀ (n : Nat) (A B : List Byte),
    crc8 (List.replicate n 0x00#8 ++ B) = crc8 B ∧ crc16 (List.replicate n 0x00#8 ++ B) = crc16 B ∧
    crc8 (A ++ B) = B.foldl crc8Step (crc8 A) ∧ crc16 (A ++ B) = B.foldl crc16Step (crc16 A)

/-- 40 R95 (d). -/
def Obligations.CrcIsLinear : Prop :=
  ∀ A B : List Byte, A.length = B.length →
    crc8 (List.zipWith (· ^^^ ·) A B) = crc8 A ^^^ crc8 B ∧ crc16 (List.zipWith (· ^^^ ·) A B) = crc16 A ^^^ crc16 B

/-- 40 R95 (e), (f): a message followed by its own CRC has CRC 0, the CRC-16 high byte first; with its bytes swapped the
residue is not always 0. -/
def Obligations.AppendedCrcLeavesZeroResidue : Prop :=
  (∀ B : List Byte, crc8 (B ++ [crc8 B]) = 0x00#8 ∧ crc16 (B ++ [hi8 (crc16 B), lo8 (crc16 B)]) = 0x0000#16) ∧
  ∃ B : List Byte, crc16 (B ++ [lo8 (crc16 B), hi8 (crc16 B)]) ≠ 0x0000#16

/-- 40 R95 (g): flipping one bit of a message changes both CRCs. -/
def Obligations.CrcDetectsEverySingleBitFlip : Prop :=
  ∀ (B : List Byte) (k : Nat), k < 8 * B.length → crc8 (flipBit B k) ≠ crc8 B ∧ crc16 (flipBit B k) ≠ crc16 B

/-! ## Family 2: the frame decoder -/

/-- 41 R100: PARSE_HARD: `op`, errors, every field at its offset, and the example. `ACC8` is left at some value. -/
def Obligations.ParseHardReadsTheHeaderFields : Prop :=
  (∀ buf, (encode (.parseHard buf)).head? = some 0x08#8) ∧
  (∀ (s : State) (buf : List Byte), s.Admits false buf.length →
    ∃ a d, exec (.parseHard buf) s =
      .next { s with acc8 := a, draws := d,
                     outputs := s.outputs ++ [if buf.length < 8 then Output.error .frameTooShort
                       else .value (.header
                         { startByte := byteAt buf 0, toHard := byteAt buf 1, fromHard := byteAt buf 2,
                           constBytes := le24 (byteAt buf 3) (byteAt buf 4) (byteAt buf 5),
                           payloadLength := byteAt buf 6, crc8 := byteAt buf 7, calcCrc8 := crc8 (buf.take 7) })] }) ∧
  headerAt scenarioFrame =
    { startByte := 0x69#8, toHard := 2#8, fromHard := 1#8, constBytes := 0x000084#24, payloadLength := 12#8,
      crc8 := 0xF6#8, calcCrc8 := 0xF6#8 }

/-- 41 R102: PARSE_SOFT: `op`, the two errors in their order, every field at its offset, and the example. `ACC16` is left at
some value. -/
def Obligations.ParseSoftReadsTheMessageFields : Prop :=
  (∀ p n, (encode (.parseSoft p n)).head? = some 0x0A#8) ∧
  (∀ (s : State) (p : List Byte) (n : Byte), s.Admits false p.length →
    ∃ a d, exec (.parseSoft p n) s =
      .next { s with acc16 := a, draws := d,
                     outputs := s.outputs ++ [if p.length ≠ n.toNat then Output.error .softLengthMismatch
                       else if p.length < 12 then .error .softMessageTooShort
                       else .value (.message
                         { toLogical := le16 (byteAt p 0) (byteAt p 1), fromLogical := le16 (byteAt p 2) (byteAt p 3),
                           functionCode := byteAt p 4, constByte := le16 (byteAt p 5) (byteAt p 6),
                           registerCount := byteAt p 7, registerStart := le16 (byteAt p 8) (byteAt p 9),
                           restMessage := (p.drop 10).take (n.toNat - 12),
                           crc16 := be16 (byteAt p (p.length - 2)) (byteAt p (p.length - 1)),
                           calcCrc16 := crc16 (p.take (p.length - 2)) })] }) ∧
  outputsOf (exec (.parseSoft (scenarioFrame.drop 8) 12#8) State.reset) =
    [Output.value (.message
      { toLogical := 2#16, fromLogical := 1#16, functionCode := 0x40#8, constByte := 0x0080#16, registerCount := 92#8,
        registerStart := 120#16, restMessage := [], crc16 := 0x7BC6#16, calcCrc16 := 0x7BC6#16 })]

/-- 41 R101: VALIDATE_HARD gives the first check that fails, Ok if none does, and changes no register; it is refused while the
ids are not written (the refusal is delivered and the run goes on: 43 R158, 60 R188, assumption 1); with equal hard ids it
never gives Ok; the example. -/
def Obligations.ValidateHardReportsTheFirstFailure : Prop :=
  (∀ h, (encode (.validateHard h)).head? = some 0x09#8) ∧
  (∀ (s : State) (h : HardHeader), s.activity = .idle →
    (s.idsWritten = false → exec (.validateHard h) s = .next { s with outputs := s.outputs ++ [Output.refused .idsUnset] }) ∧
    (s.idsWritten = true → exec (.validateHard h) s = .next { s with outputs := s.outputs ++
      [if h.startByte ≠ 0x69#8 then Output.error .invalidStartByte
       else if h.crc8 ≠ h.calcCrc8 then .error .invalidHardChecksum
       else if h.constBytes ≠ 0x000084#24 then .error .invalidConstBytes
       else if (h.fromHard ≠ s.ids.conHard ∧ h.fromHard ≠ s.ids.devHard) ∨
            (h.toHard ≠ s.ids.conHard ∧ h.toHard ≠ s.ids.devHard) then .error .invalidHardAddress
       else if h.fromHard = h.toHard then .error .hardAddressCollision
       else .value .ok] }) ∧
    (s.idsWritten = true → s.ids.conHard = s.ids.devHard →
      ∃ k, outputsOf (exec (.validateHard h) s) = s.outputs ++ [Output.error k])) ∧
  (∀ s : State, s.activity = .idle → s.idsWritten = true → s.ids = ⟨1#8, 2#8, 1#16, 2#16⟩ →
    outputsOf (exec (.validateHard (headerAt scenarioFrame)) s) = s.outputs ++ [Output.value .ok] ∧
    outputsOf (exec (.validateHard { headerAt scenarioFrame with
      toHard := 3#8, crc8 := 0x6E#8, calcCrc8 := crc8 [0x69#8, 3#8, 1#8, 0x84#8, 0#8, 0#8, 12#8] }) s) =
        s.outputs ++ [Output.error .invalidHardAddress])

/-- 41 R104. -/
def Obligations.LogicalOfTriesTheControllerFirst : Prop :=
  ∀ (ids : Ids) (a : Byte),
    ids.logicalOf a =
      if a = ids.conHard then some ids.conLogical else if a = ids.devHard then some ids.devLogical else none

/-- 41 R103: VALIDATE_SOFT gives the first check that fails, Ok if none does, and changes no register; it is refused while the
ids are not written (the refusal is delivered and the run goes on: 43 R158, 60 R188, assumption 1); the example. It holds for
a `rest_message` of any length whatever `BUF_MAX` is (assumption 22). -/
def Obligations.ValidateSoftReportsTheFirstFailure : Prop :=
  (∀ h m, (encode (.validateSoft h m)).head? = some 0x0B#8) ∧
  (∀ (s : State) (h : HardHeader) (m : SoftMessage), s.activity = .idle →
    (s.idsWritten = false →
      exec (.validateSoft h m) s = .next { s with outputs := s.outputs ++ [Output.refused .idsUnset] }) ∧
    (s.idsWritten = true →
      (m.crc16 ≠ m.calcCrc16 →
        exec (.validateSoft h m) s = .next { s with outputs := s.outputs ++ [Output.error .invalidSoftChecksum] }) ∧
      (m.crc16 = m.calcCrc16 → m.constByte ≠ 0x0080#16 →
        exec (.validateSoft h m) s = .next { s with outputs := s.outputs ++ [Output.error .invalidSoftConst] }) ∧
      (m.crc16 = m.calcCrc16 → m.constByte = 0x0080#16 →
        ¬ (s.ids.Bound h.fromHard m.fromLogical ∧ s.ids.Bound h.toHard m.toLogical) →
        exec (.validateSoft h m) s = .next { s with outputs := s.outputs ++ [Output.error .invalidSoftAddress] }) ∧
      (m.crc16 = m.calcCrc16 → m.constByte = 0x0080#16 →
        s.ids.Bound h.fromHard m.fromLogical → s.ids.Bound h.toHard m.toLogical →
        exec (.validateSoft h m) s = .next { s with outputs := s.outputs ++ [Output.value .ok] }))) ∧
  (∀ s : State, s.activity = .idle → s.idsWritten = true → s.ids = ⟨1#8, 2#8, 1#16, 2#16⟩ →
    outputsOf (exec (.validateSoft (headerAt scenarioFrame) (messageAt scenarioFrame)) s) = s.outputs ++ [Output.value .ok] ∧
    outputsOf (exec (.validateSoft (headerAt scenarioFrame)
      { messageAt scenarioFrame with
        toLogical := 1#16, crc16 := 0xCA09#16,
        calcCrc16 := crc16 [1#8, 0#8, 1#8, 0#8, 0x40#8, 0x80#8, 0#8, 0x5C#8, 0x78#8, 0#8] }) s) =
        s.outputs ++ [Output.error .invalidSoftAddress])

/-- 30_encoding R67 and 41 R105, R110: PROCESS_ONE is refused while the ids are not written (the refusal is delivered and the
run goes on: 43 R158, 60 R188, assumption 1); else the first row of the table of
illegal encodings that holds of the buffer's bytes is the error kind reported, row 7 being the wait path in
partial-tolerant mode; if none holds, the MSG carries the frame's fields and bytes, and the result pair follows when the
host has handled it. The accumulators are left at some values; nothing else changes. -/
def Obligations.ProcessOneReportsTheFirstIllegalEncoding : Prop :=
  (∀ F p, (encode (.processOne F p)).head? = some 0x0C#8) ∧
  (∀ (s : State) (F : List Byte) (p : Bool), s.Admits false F.length → s.idsWritten = false →
    exec (.processOne F p) s = .next { s with outputs := s.outputs ++ [Output.refused .idsUnset] }) ∧
  ∀ (s : State) (F : List Byte) (allowPartial : Bool), s.Admits true F.length →
    (∀ row, FirstIllegal s.ids F row →
      ∃ a8 a16 d, exec (.processOne F allowPartial) s =
        .next { s with acc8 := a8, acc16 := a16, draws := d,
                       outputs := s.outputs ++
                         [if row = 7 ∧ allowPartial = true then .value (.consumed 0 F) else .error (rowKind row)] }) ∧
    (Legal s.ids F →
      ∃ a8 a16 d, exec (.processOne F allowPartial) s =
        .next { s with acc8 := a8, acc16 := a16, draws := d,
                       activity := .handling (.result (.consumed (8 + (byteAt F 6).toNat)
                         (F.drop (8 + (byteAt F 6).toNat)))),
                       outputs := s.outputs ++ [Output.msg (headerAt F) (messageAt F) (F.take (8 + (byteAt F 6).toNat))] }) ∧
    (Legal s.ids F ∨ ∃ row, row ≤ 11 ∧ FirstIllegal s.ids F row) ∧
    ∀ (t : State) (n : Nat) (rest : List Byte) (later : List HostAct),
      t.activity = .handling (.result (.consumed n rest)) → t.host = .ack :: later →
        step t = .next { t with host := later, activity := .idle, outputs := t.outputs ++ [Output.value (.consumed n rest)] }

/-- 41 R107: a delivered frame consumes exactly `8 + payload_length` bytes, at least 20; the raw bytes and the remaining buffer
are the buffer cut there; and on the host's return the cursor of PROCESS_ALL advances by exactly that amount, or the loop
ends with what is left. -/
def Obligations.DeliveredFrameConsumesHeaderAndPayload : Prop :=
  (∀ ids buffer allowPartial h sh raw n rest,
    processFrame ids buffer allowPartial = .delivered h sh raw n rest →
      n = 8 + h.payloadLength.toNat ∧ 20 ≤ n ∧ raw.length = n ∧ raw ++ rest = buffer) ∧
  (∀ (s : State) (later : List HostAct) (sc : Scan) (n : Nat),
    s.host = .ack :: later → s.activity = .handling (.advance sc n) → 0 < n →
      step s = .next { s with
        host := later
        activity := if sc.min < sc.buffer.length - (sc.pos + n)
          then .scanning { sc with pos := sc.pos + n } else .idle
        outputs := if sc.min < sc.buffer.length - (sc.pos + n) then s.outputs
          else s.outputs ++ [Output.value (.remaining (sc.buffer.drop (sc.pos + n)))] })

/-- 41 R106, the loop's head: PROCESS_ALL starts with the cursor at 0 and gives the buffer back at once when no more than
`min` bytes remain (0 in strict mode, 8 in partial-tolerant mode). The accumulators are left at some values. -/
def Obligations.ProcessAllBeginsAtCursorZero : Prop :=
  ∀ (s : State) (buffer : List Byte) (allowPartial : Bool), s.Admits true buffer.length →
    ∃ a8 a16 d, exec (.processAll buffer allowPartial) s =
      .next { s with
        acc8 := a8, acc16 := a16, draws := d
        activity := if (if allowPartial then 8 else 0) < buffer.length
          then .scanning ⟨buffer, 0, allowPartial⟩ else .idle
        outputs := if (if allowPartial then 8 else 0) < buffer.length then s.outputs
          else s.outputs ++ [Output.value (.remaining buffer)] }

/-- 41 R106, 43 R153, R158: PROCESS_ALL runs to its end. With a host that takes each MSG, the block is idle again after at
most two steps a byte, has delivered exactly the outputs of R106's loop written as one function, in order, and has changed no
id register. The steps counted, one for a frame and one for the host's handling of its MSG, are the model's own, and so is the
list of the host's acts (assumptions 2, 11). -/
def Obligations.ProcessAllRunsToItsResult : Prop :=
  ∀ (s : State) (buffer : List Byte) (allowPartial : Bool), s.Admits true buffer.length →
    s.host = List.replicate (2 * buffer.length) .ack →
    ∃ t k u, exec (.processAll buffer allowPartial) s = .next t ∧ k ≤ 2 * buffer.length ∧
      Host.Core.run core k t = .next u ∧ u.activity = .idle ∧
      u.outputs = s.outputs ++ processAllOutputs s.ids buffer allowPartial ∧
      u.ids = s.ids ∧ u.idsWritten = s.idsWritten

/-- 41 R106 (a) to (d), 60 R187: a legal frame at the head of the buffer is delivered and the rest is processed as if it stood
alone; an empty buffer comes back in both modes; up to 8 bytes come back untouched in partial-tolerant mode; 1 to 7
trailing bytes raise `FrameTooShort` in strict mode; and wherever more than `min` bytes are there (0 in strict mode, 8 in
partial-tolerant mode) and are no frame, the kind of the first row of R67 that holds is raised, `SoftLengthMismatch` for a
valid header with a short soft message in strict mode, while in partial-tolerant mode that one case gives the bytes back. -/
def Obligations.ProcessAllDeliversFrameAfterFrame : Prop :=
  (∀ (ids : Ids) (F B : List Byte) (allowPartial : Bool), Legal ids F → F.length = 8 + (byteAt F 6).toNat →
    processAllOutputs ids (F ++ B) allowPartial =
      .msg (headerAt F) (messageAt F) F :: processAllOutputs ids B allowPartial) ∧
  (∀ ids allowPartial, processAllOutputs ids [] allowPartial = [Output.value (.remaining [])]) ∧
  (∀ ids (B : List Byte), B.length ≤ 8 → processAllOutputs ids B true = [Output.value (.remaining B)]) ∧
  (∀ ids (B : List Byte), 0 < B.length → B.length < 8 → processAllOutputs ids B false = [Output.error .frameTooShort]) ∧
  (∀ (ids : Ids) (B : List Byte) (allowPartial : Bool) (row : Nat), (if allowPartial then 8 else 0) < B.length →
    FirstIllegal ids B row → processAllOutputs ids B allowPartial =
      [if row = 7 ∧ allowPartial = true then Output.value (.remaining B) else .error (rowKind row)])

/-- 41 R108: in strict mode PROCESS_ONE raises an error kind or consumes at least 20 bytes, and no PROCESS_ALL raises
`StuckConsumption` in either mode. -/
def Obligations.StuckConsumptionIsNeverRaised : Prop :=
  (∀ ids buffer, (∃ k, processFrame ids buffer false = .raised k) ∨
    ∃ h sh raw n rest, processFrame ids buffer false = .delivered h sh raw n rest ∧ 20 ≤ n) ∧
  (∀ ids buffer allowPartial, .error .stuckConsumption ∉ processAllOutputs ids buffer allowPartial)

/-- 41 R113: what a decoder operation, or a frame at PROCESS_ALL's cursor, delivers and does next depends on its operands and
the id registers (with `IDS_WRITTEN`, what is in progress and the parameter `BUF_MAX`), on neither accumulator and on
nothing delivered before; and no such operation writes an id register. -/
def Obligations.DecoderOutcomesDependOnOperandsAndIds : Prop :=
  ∀ (i : Instr) (s1 s2 t1 : State),
    ((∃ buf, i = .parseHard buf) ∨ (∃ h, i = .validateHard h) ∨ (∃ p n, i = .parseSoft p n) ∨
      (∃ h m, i = .validateSoft h m) ∨ (∃ b p, i = .processOne b p) ∨ (∃ b p, i = .processAll b p) ∨
      i.space = .buffer) →
    s1.ids = s2.ids → s1.idsWritten = s2.idsWritten → s1.activity = s2.activity → s1.bufMax = s2.bufMax →
    exec i s1 = .next t1 →
    ∃ t2 new, exec i s2 = .next t2 ∧ t1.outputs = s1.outputs ++ new ∧ t2.outputs = s2.outputs ++ new ∧
      t1.activity = t2.activity ∧ t1.ids = s1.ids ∧ t1.idsWritten = s1.idsWritten

/-- 41 R114: take any frame that PROCESS_ONE delivers and flip one bit of it: in both modes the outcome is `InvalidStartByte`
for a bit of byte 0, `InvalidHardChecksum` for a bit of bytes 1 to 7, `InvalidSoftChecksum` for a bit of the soft message;
it is never delivered. -/
def Obligations.SingleBitFlipIsNeverDelivered : Prop :=
  ∀ (s : State) (F : List Byte) (h : HardHeader) (sh : SoftMessage) (k : Nat) (allowPartial : Bool),
    s.Admits true F.length →
    outputsOf (exec (.processOne F false) s) = s.outputs ++ [Output.msg h sh F] → k < 8 * F.length →
    outputsOf (exec (.processOne (flipBit F k) allowPartial) s) =
      s.outputs ++ [Output.error (if k < 8 then .invalidStartByte else if k < 64 then .invalidHardChecksum
        else .invalidSoftChecksum)]

/-- 43 R150 with 41 R101: with equal hard ids no frame is delivered, by PROCESS_ONE or by PROCESS_ALL. -/
def Obligations.EqualHardIdsDeliverNothing : Prop :=
  ∀ (ids : Ids) (buffer : List Byte) (allowPartial : Bool), ids.conHard = ids.devHard →
    (∀ h sh raw n rest, processFrame ids buffer allowPartial ≠ .delivered h sh raw n rest) ∧
    ∀ h sh raw, .msg h sh raw ∉ processAllOutputs ids buffer allowPartial

/-! ## The frames -/

/-- 30_encoding R66, with R61, R62, R63, R65 and 41 R110: a whole frame of any function code, known or not, at the cursor of a
running PROCESS_ALL, whose checksums and addresses are right, is delivered alike: the MSG carries its fields as they stand,
`rest_message` uninterpreted, and its bytes; nothing is asked of `function_code`, `register_count`, `register_start` or
`rest_message`. No id register changes. That the frame's turn leaves the accumulators as they are is the model's: 10_state R21
leaves both unspecified after PROCESS_ALL, and they are drawn when it begins (assumption 12). That one frame is one step is
assumption 11. -/
def Obligations.FramesAtTheCursorAreDelivered : Prop :=
  ∀ (s : State) (sc : Scan) (i : Instr) (fn : Byte) (f : Frame) (count : Byte) (start : Half) (rest : List Byte)
    (crc : Half),
    s.activity = .scanning sc → s.idsWritten = true →
    ((i = .readReq f ∧ fn = 0x40#8) ∨ (i = .readResp f ∧ fn = 0x50#8) ∨ (i = .writePush f ∧ fn = 0x60#8) ∨
      (i = .writeAck f ∧ fn = 0x70#8) ∨ i = .frameOther fn f) →
    f.tail = .whole count start rest crc → f.payloadLength.toNat = 12 + rest.length →
    f.crc8 = crc8 [0x69#8, f.toHard, f.fromHard, 0x84#8, 0x00#8, 0x00#8, f.payloadLength] →
    s.ids.Bound f.toHard f.toLogical → s.ids.Bound f.fromHard f.fromLogical → f.toHard ≠ f.fromHard →
    crc = crc16 ([lo8 f.toLogical, hi8 f.toLogical, lo8 f.fromLogical, hi8 f.fromLogical, fn, 0x80#8, 0x00#8, count,
      lo8 start, hi8 start] ++ rest) →
    exec i s = .next { s with
      activity := .handling (.advance sc (20 + rest.length))
      outputs := s.outputs ++ [.msg
        { startByte := 0x69#8, toHard := f.toHard, fromHard := f.fromHard, constBytes := 0x000084#24,
          payloadLength := f.payloadLength, crc8 := f.crc8, calcCrc8 := f.crc8 }
        { toLogical := f.toLogical, fromLogical := f.fromLogical, functionCode := fn, constByte := 0x0080#16,
          registerCount := count, registerStart := start, restMessage := rest, crc16 := crc, calcCrc16 := crc }
        (encode i)] }

/-- 60 R186, R187, 41 R106, 30_encoding R67: a frame row whose bytes at the cursor are illegal by R67 ends PROCESS_ALL with
the kind of the first row that holds, or, where only its soft message is not all there in partial-tolerant mode, gives the
bytes from the cursor back; no MSG, no id register changed. (For every form a frame instruction has: bytes cut short and wrong
checksums included.) That the frame's turn leaves the accumulators as they are is the model's: R186 leaves them unspecified
after the operation, and they are drawn when it begins (assumption 12). That one frame is one step is assumption 11. -/
def Obligations.IllegalFramesAtTheCursorEndProcessAll : Prop :=
  ∀ (s : State) (sc : Scan) (i : Instr) (row : Nat),
    s.activity = .scanning sc → s.idsWritten = true → i.space = .buffer → FirstIllegal s.ids (encode i) row →
    exec i s = .next { s with
      activity := .idle
      outputs := s.outputs ++ [if row = 7 ∧ sc.allowPartial = true then .value (.remaining sc.rest)
        else .error (rowKind row)] }

/-- 30_encoding R75, R66: the row a byte string matches, and that every frame PROCESS_ONE delivers matches one of the five rows, as
a whole well-formed frame whose encoding is its bytes. -/
def Obligations.EveryDeliveredFrameMatchesATableRow : Prop :=
  (∀ bytes, classify bytes =
    if 15 ≤ bytes.length ∧ byteAt bytes 0 = 0x69#8 ∧
        [byteAt bytes 3, byteAt bytes 4, byteAt bytes 5] = [0x84#8, 0x00#8, 0x00#8] ∧
        [byteAt bytes 13, byteAt bytes 14] = [0x80#8, 0x00#8] then
      some (if byteAt bytes 12 = 0x40#8 then .readReq else if byteAt bytes 12 = 0x50#8 then .readResp
        else if byteAt bytes 12 = 0x60#8 then .writePush else if byteAt bytes 12 = 0x70#8 then .writeAck else .other)
    else none) ∧
  (∀ ids buffer allowPartial h sh raw n rest,
    processFrame ids buffer allowPartial = .delivered h sh raw n rest →
      ∃ i, decode .buffer buffer = .ok i ∧ i.wellFormed = true ∧ encode i = raw)

/-! ## Family 3: the frame encoder -/

/-- 42 R130: BUILD_READ: `op`, the 20 bytes, no error, no id register read, equal hard ids (a frame no configuration accepts), and
the source's worked example. The accumulators are left at some values. -/
def Obligations.BuildReadWritesTheRequestFrame : Prop :=
  (∀ d c dl cl start count, (encode (.buildRead d c dl cl start count)).head? = some 0x0E#8) ∧
  (∀ (s : State) (d c : Byte) (dl cl start : Half) (count : Byte), s.activity = .idle →
    ∃ p F : List Byte,
      p = [lo8 dl, hi8 dl, lo8 cl, hi8 cl, 0x40#8, 0x80#8, 0x00#8, count, lo8 start, hi8 start] ∧
      F = [0x69#8, d, c, 0x84#8, 0x00#8, 0x00#8, 0x0C#8, crc8 [0x69#8, d, c, 0x84#8, 0x00#8, 0x00#8, 0x0C#8]] ++ p ++
        [hi8 (crc16 p), lo8 (crc16 p)] ∧
      F.length = 20 ∧ (d = c → ∀ ids allowPartial, ∃ k, processFrame ids F allowPartial = .raised k) ∧
      ∃ a8 a16 n, exec (.buildRead d c dl cl start count) s =
        .next { s with acc8 := a8, acc16 := a16, draws := n, outputs := s.outputs ++ [Output.value (.frame F)] }) ∧
  (∀ s : State, s.activity = .idle →
    outputsOf (exec (.buildRead 2#8 1#8 2#16 1#16 120#16 92#8) s) = s.outputs ++ [Output.value (.frame scenarioFrame)])

/-- 42 R131, R134: BUILD_WRITE: `op`; with at most 121 values the bytes, each value low byte first, `count` copied and
compared with nothing, no error; with more, the refusal (delivered, and the run goes on: 43 R158, 60 R188, assumption 1); the
example. It holds whatever `BUF_MAX` is (assumption 22). The accumulators are left at some values. -/
def Obligations.BuildWriteWritesTheValuesLowByteFirst : Prop :=
  (∀ d c dl cl start count values, (encode (.buildWrite d c dl cl start count values)).head? = some 0x0F#8) ∧
  (∀ (s : State) (d c : Byte) (dl cl start : Half) (count : Byte) (values : List Half), s.activity = .idle →
    121 < values.length → exec (.buildWrite d c dl cl start count values) s =
      .next { s with outputs := s.outputs ++ [Output.refused .payloadTooLong] }) ∧
  (∀ (s : State) (d c : Byte) (dl cl start : Half) (count : Byte) (values : List Half), s.activity = .idle →
    values.length ≤ 121 →
    ∃ p hd : List Byte,
      p = [lo8 dl, hi8 dl, lo8 cl, hi8 cl, 0x60#8, 0x80#8, 0x00#8, count, lo8 start, hi8 start] ++ wordBytes values ∧
      hd = [0x69#8, d, c, 0x84#8, 0x00#8, 0x00#8, BitVec.ofNat 8 (12 + 2 * values.length)] ∧
      ∃ a8 a16 n, exec (.buildWrite d c dl cl start count values) s =
        .next { s with acc8 := a8, acc16 := a16, draws := n,
                       outputs := s.outputs ++
                         [Output.value (.frame (hd ++ [crc8 hd] ++ p ++ [hi8 (crc16 p), lo8 (crc16 p)]))] }) ∧
  (∀ s : State, s.activity = .idle →
    outputsOf (exec (.buildWrite 2#8 1#8 2#16 1#16 304#16 2#8 [0x0001#16]) s) = s.outputs ++ [Output.value (.frame
      [0x69#8, 0x02#8, 0x01#8, 0x84#8, 0x00#8, 0x00#8, 0x0E#8, 0x89#8, 0x02#8, 0x00#8, 0x01#8, 0x00#8, 0x60#8, 0x80#8,
       0x00#8, 0x02#8, 0x30#8, 0x01#8, 0x01#8, 0x00#8, 0x23#8, 0x85#8])])

/-- 42 R133: a write of more than 121 values is refused, `PayloadTooLong`, and nothing is built or changed (the refusal is
delivered and the run goes on: 43 R158, 60 R188, assumption 1); any other builds a frame of `20 + 2*len(values)` bytes, 262 at
most. It holds whatever `BUF_MAX` is (assumption 22). -/
def Obligations.BuildWriteRefusesMoreThan121Values : Prop :=
  ∀ (s : State) (d c : Byte) (dl cl start : Half) (count : Byte) (values : List Half), s.activity = .idle →
    (121 < values.length → exec (.buildWrite d c dl cl start count values) s =
      .next { s with outputs := s.outputs ++ [Output.refused .payloadTooLong] }) ∧
    (values.length ≤ 121 → ∃ F, outputsOf (exec (.buildWrite d c dl cl start count values) s) =
      s.outputs ++ [Output.value (.frame F)] ∧ F.length = 20 + 2 * values.length ∧ F.length ≤ 262 ∧
      (byteAt F 6).toNat = 12 + 2 * values.length)

/-- 42 R136: for every frame a builder returns, both checksums match. -/
def Obligations.BuiltFramesCarryTheirChecksums : Prop :=
  ∀ (s : State) (i : Instr) (F : List Byte),
    ((∃ d c dl cl start count, i = .buildRead d c dl cl start count) ∨
      ∃ d c dl cl start count values, i = .buildWrite d c dl cl start count values) →
    outputsOf (exec i s) = s.outputs ++ [Output.value (.frame F)] →
    byteAt F 7 = crc8 (F.take 7) ∧
    be16 (byteAt F (6 + (byteAt F 6).toNat)) (byteAt F (7 + (byteAt F 6).toNat)) =
      crc16 ((F.drop 8).take ((byteAt F 6).toNat - 2))

/-- 42 R135: with the configured ids in controller-to-device order, every built request parses, validates and gives its operands
back through the four steps and through PROCESS_ONE; the frame of the other direction is delivered too. -/
def Obligations.BuiltFramesDecodeToTheirOperands : Prop :=
  ∀ (s : State) (c d : Byte) (cl dl start : Half) (count : Byte) (values : List Half) (i : Instr) (fn : Byte),
    s.Admits true 262 → s.ids = Ids.mk c d cl dl → c ≠ d → values.length ≤ 121 →
    ((i = .buildWrite d c dl cl start count values ∧ fn = 0x60#8) ∨
      (i = .buildRead d c dl cl start count ∧ fn = 0x40#8 ∧ values = [])) →
    (∃ F h m t, outputsOf (exec i s) = s.outputs ++ [Output.value (.frame F)] ∧
      outputsOf (exec (.parseHard F) s) = s.outputs ++ [Output.value (.header h)] ∧
      outputsOf (exec (.validateHard h) s) = s.outputs ++ [Output.value .ok] ∧
      outputsOf (exec (.parseSoft (F.drop 8) (byteAt F 6)) s) = s.outputs ++ [Output.value (.message m)] ∧
      outputsOf (exec (.validateSoft h m) s) = s.outputs ++ [Output.value .ok] ∧
      m.registerStart = start ∧ m.registerCount = count ∧ m.functionCode = fn ∧ m.restMessage = wordBytes values ∧
      exec (.processOne F false) s = .next t ∧ t.outputs = s.outputs ++ [Output.msg h m F] ∧
      t.activity = .handling (.result (.consumed F.length []))) ∧
    (∃ F h m, outputsOf (exec (.buildRead c d cl dl start count) s) = s.outputs ++ [Output.value (.frame F)] ∧
      outputsOf (exec (.processOne F false) s) = s.outputs ++ [Output.msg h m F])

/-- 42 R137: the builders read no state: on every idle state, ids written or not, the same operands give the same output, a
frame, or `PayloadTooLong`, which is delivered and the run goes on (assumption 1). It holds whatever `BUF_MAX` is (assumption
22). -/
def Obligations.BuildersReadNoState : Prop :=
  ∀ i : Instr,
    ((∃ d c dl cl start count, i = .buildRead d c dl cl start count) ∨
      ∃ d c dl cl start count values, i = .buildWrite d c dl cl start count values) →
    ∃ o, (o = .refused .payloadTooLong ∨ ∃ F, o = .value (.frame F)) ∧
      ∀ s : State, s.activity = .idle → outputsOf (exec i s) = s.outputs ++ [o]

/-! ## Family 4: configuration, refusals, the host -/

/-- 43 R150: SET_IDS: `op`, all four registers and `IDS_WRITTEN` together, any values, again at any time; no other instruction
writes an id; none reads them back: only the validators and what runs them deliver anything that depends on the ids, and
SET_IDS sees nothing of the old ones; with equal hard ids no frame validates; its example. -/
def Obligations.SetIdsWritesAllFourIds : Prop :=
  (∀ ch dh cl dl, (encode (.setIds ch dh cl dl)).head? = some 0x10#8) ∧
  (∀ (s : State) (ch dh : Byte) (cl dl : Half), s.activity = .idle →
    exec (.setIds ch dh cl dl) s =
      .next { s with ids := { conHard := ch, devHard := dh, conLogical := cl, devLogical := dl }, idsWritten := true,
                     outputs := s.outputs ++ [Output.value .none] }) ∧
  (∀ (i : Instr) (s t : State), exec i s = .next t → (t.ids ≠ s.ids ∨ t.idsWritten ≠ s.idsWritten) →
    ∃ ch dh cl dl, i = .setIds ch dh cl dl) ∧
  (∀ (i : Instr) (s : State) (other : Ids), i.space = .command → (∀ h, i ≠ .validateHard h) →
    (∀ h m, i ≠ .validateSoft h m) → (∀ b p, i ≠ .processOne b p) → (∀ b p, i ≠ .processAll b p) →
    outputsOf (exec i { s with ids := other }) = outputsOf (exec i s)) ∧
  (∀ (ids : Ids) (buffer : List Byte) (allowPartial : Bool), ids.conHard = ids.devHard →
    ∃ k, processFrame ids buffer allowPartial = .raised k) ∧
  ∃ t, exec (.setIds 1#8 2#8 1#16 2#16) State.reset = .next t ∧ t.ids.conHard = 1#8 ∧ t.ids.conLogical = 1#16 ∧
    t.ids.devHard = 2#8 ∧ t.ids.devLogical = 2#16

/-- 10_state R21, the write table: when an instruction goes on, the accumulators and the ids change only as the table says,
and neither the host's script nor the parameter changes. The table has no frame rows: that a frame at PROCESS_ALL's cursor
leaves both accumulators as they are is the model's, since PROCESS_ALL's free values are drawn when it begins (assumption 12).
The script and the parameter are the model's fields (assumptions 2, 9). -/
def Obligations.InstructionsWriteOnlyTheirRegisters : Prop :=
  ∀ (i : Instr) (s t : State), exec i s = .next t →
    ((i.space = .buffer ∨ i = .crc8Read ∨ (∃ h, i = .validateHard h) ∨ (∃ p n, i = .parseSoft p n) ∨
      (∃ h m, i = .validateSoft h m) ∨ (∃ a b c d, i = .setIds a b c d) ∨ i = .crc16Clr ∨ (∃ b, i = .crc16Byte b) ∨
      i = .crc16Read ∨ (∃ b, i = .crc16Msg b)) → t.acc8 = s.acc8) ∧
    ((i.space = .buffer ∨ i = .crc16Read ∨ (∃ h, i = .validateHard h) ∨ (∃ b, i = .parseHard b) ∨
      (∃ h m, i = .validateSoft h m) ∨ (∃ a b c d, i = .setIds a b c d) ∨ i = .crc8Clr ∨ (∃ b, i = .crc8Byte b) ∨
      i = .crc8Read ∨ (∃ b, i = .crc8Msg b)) → t.acc16 = s.acc16) ∧
    ((∀ a b c d, i ≠ .setIds a b c d) → t.ids = s.ids ∧ t.idsWritten = s.idsWritten) ∧
    t.host = s.host ∧ t.bufMax = s.bufMax

/-- 43 R159, 70 R205, 10_state R12: in a whole step, whatever the host does, the id registers and `IDS_WRITTEN` change only
when the host requests SET_IDS of an idle block or asserts reset. -/
def Obligations.OnlySetIdsAndResetTouchTheIds : Prop :=
  ∀ s t : State, step s = .next t → (t.ids ≠ s.ids ∨ t.idsWritten ≠ s.idsWritten) →
    ∃ later, s.host = .reset :: later ∨
      ∃ bytes ch dh cl dl, s.host = .request bytes :: later ∧ s.activity = .idle ∧
        decode .command bytes = .ok (.setIds ch dh cl dl) ∧ t.ids = ⟨ch, dh, cl, dl⟩ ∧ t.idsWritten = true

/-- 60 R170: the codes of the error kinds, and which operation can deliver which kind: the CRC operations, the builders and SET_IDS
none, each decoder step its own, PROCESS_ONE 1 to 11, PROCESS_ALL, with the bytes at its cursor, 1 to 12. The last clause
says it of a whole step, frame rows or not at the cursor (assumptions 11, 15; the host's acts are assumption 2): an error
kind comes from the operation requested, or from the bytes at the cursor of a running PROCESS_ALL, then 1 to 11, or from
the tail of its loop, then 12, where a frame has consumed nothing in strict mode. -/
def Obligations.ErrorKindsComeFromTheirOperations : Prop :=
  [ErrorKind.frameTooShort, .invalidStartByte, .invalidHardChecksum, .invalidConstBytes, .invalidHardAddress,
    .hardAddressCollision, .softLengthMismatch, .softMessageTooShort, .invalidSoftChecksum, .invalidSoftConst,
    .invalidSoftAddress, .stuckConsumption, .decodeOutOfBounds].map ErrorKind.code = List.range' 1 13 ∧
  (∀ v, (Output.value v).code = some 0) ∧ (∀ k, (Output.error k).code = some k.code) ∧
  (∀ (i : Instr) (s t : State) (new : List Output) (k : ErrorKind), exec i s = .next t → t.outputs = s.outputs ++ new →
    .error k ∈ new → MayRaise i k) ∧
  ∀ (s t : State) (new : List Output) (k : ErrorKind), step s = .next t → t.outputs = s.outputs ++ new → .error k ∈ new →
    (∃ bytes later i, s.host = .request bytes :: later ∧ decode .command bytes = .ok i ∧ MayRaise i k) ∨
    (∃ sc, s.activity = .scanning sc ∧ s.Unasked ∧ k.code ≤ 11) ∨
    (∃ sc later, s.activity = .handling (.advance sc 0) ∧ s.host = .ack :: later ∧ sc.allowPartial = false ∧
      k = .stuckConsumption)

/-- 60 R184 with 43 R154: each reason of a refusal where it applies; the refusal is delivered and no state changes. That a
refused request's run goes on is assumption 1. That `Busy` comes before every other reason is assumption 10, and that it is
given to bytes that are no request of the model's layout too, assumption 5. Where `IdsUnset` and `BufferTooLong` both apply
the spec states no order, and one of the two is delivered (assumption 10). Which operands `BUF_MAX` bounds, so that
`PayloadTooLong` is given whatever it is, is assumption 22. The host's acts are assumption 2, and `op` as the low five bits of
a request's first byte is assumption 4. -/
def Obligations.RefusedRequestsChangeNothing : Prop :=
  (∀ (s : State) (bytes : List Byte) (later : List HostAct), s.host = .request bytes :: later → s.activity ≠ .idle →
    step s = .next { s with host := later, outputs := s.outputs ++ [Output.refused .busy] }) ∧
  (∀ (s : State) (b : Byte) (args : List Byte) (later : List HostAct), s.host = .request (b :: args) :: later →
    s.activity = .idle → 0x11 ≤ b.toNat % 32 →
    step s = .next { s with host := later, outputs := s.outputs ++ [Output.refused .unknownOperation] }) ∧
  (∀ (s : State) (i : Instr) (len : Nat),
    ((∃ b p, i = .processOne b p ∧ len = b.length) ∨ (∃ b p, i = .processAll b p ∧ len = b.length) ∨
      (∃ h, i = .validateHard h ∧ len = 0) ∨ (∃ h m, i = .validateSoft h m ∧ len = 0)) →
    s.activity = .idle → s.idsWritten = false →
    ∃ r, exec i s = .next { s with outputs := s.outputs ++ [Output.refused r] } ∧
      ((∀ max, s.bufMax = some max → len ≤ max) → r = .idsUnset) ∧ (r = .idsUnset ∨ r = .bufferTooLong)) ∧
  (∀ (s : State) (i : Instr) (bytes : List Byte) (max : Nat),
    (i = .crc8Msg bytes ∨ i = .crc16Msg bytes ∨ i = .parseHard bytes ∨ (∃ n, i = .parseSoft bytes n) ∨
      ((∃ p, i = .processOne bytes p ∨ i = .processAll bytes p) ∧ s.idsWritten = true)) →
    s.activity = .idle → s.bufMax = some max → max < bytes.length →
    exec i s = .next { s with outputs := s.outputs ++ [Output.refused .bufferTooLong] }) ∧
  (∀ (s : State) (d c : Byte) (dl cl start : Half) (count : Byte) (values : List Half), s.activity = .idle →
    121 < values.length → exec (.buildWrite d c dl cl start count values) s =
      .next { s with outputs := s.outputs ++ [Output.refused .payloadTooLong] })

/-- 43 R153, R154: while the host handles an MSG, nothing is parsed, emitted or delivered but `Busy` refusals, until the host
has handled it or asserts reset: what is to come next stays as it was. The host's acts are the model's (assumption 2). That an
unassigned `op` and bytes that are no request of the model's layout are refused `Busy` like every other request is the model's
choice (assumptions 10, 5). -/
def Obligations.HandlingBlocksUntilTheHostReturns : Prop :=
  ∀ (s t : State) (r : Resume), s.activity = .handling r → step s = .next t →
    (∃ later, s.host = .ack :: later ∨ s.host = .reset :: later) ∨
    ({ t with host := s.host, outputs := s.outputs } = s ∧
      (t.outputs = s.outputs ∨ t.outputs = s.outputs ++ [Output.refused .busy]))

/-- 10_state R14, 41 R112: while PROCESS_ALL runs, its buffer and its mode stay, and the cursor stays where it is or, when the host
has handled a delivered frame, moves by the bytes that frame consumed; never otherwise and never backwards. -/
def Obligations.TheCursorMovesOnlyPastDeliveredFrames : Prop :=
  ∀ (s t : State) (sc sc' : Scan), step s = .next t → s.activity.cursor = some sc → t.activity.cursor = some sc' →
    sc'.buffer = sc.buffer ∧ sc'.allowPartial = sc.allowPartial ∧
    (sc'.pos = sc.pos ∨ ∃ n later, s.activity = .handling (.advance sc n) ∧ s.host = .ack :: later ∧ sc'.pos = sc.pos + n)

/-- 60 R189: an idle block that is asked nothing changes nothing; a PROCESS_ONE's result follows its MSG when the host has
handled it (20_memory R41 (c)). -/
def Obligations.BlockDoesNothingUnasked : Prop :=
  (∀ (s : State), s.activity = .idle → s.host = [] → step s = .next s) ∧
  (∀ (s : State) (a : HostAct) (later : List HostAct), s.activity = .idle → s.host = a :: later →
    (a = .idle ∨ a = .ack) → step s = .next { s with host := later }) ∧
  (∀ (s : State) (v : Value) (later : List HostAct), s.activity = .handling (.result v) → s.host = .ack :: later →
    step s = .next { s with host := later, activity := .idle, outputs := s.outputs ++ [Output.value v] })

/-- 60 R186, R187, R185, 43 R158, R153: a step delivers at most one thing, takes nothing back, and an error kind or a value
ends the operation: the block is idle and ready. R185 gives at most one error kind an operation; that a step delivers at most
one thing of any sort is the model's cut of PROCESS_ONE and PROCESS_ALL into steps (assumption 11), and the record of what was
delivered is the model's too (assumption 3). -/
def Obligations.OutputsOnlyGrow : Prop :=
  ∀ s t : State, step s = .next t →
    ∃ new, t.outputs = s.outputs ++ new ∧ new.length ≤ 1 ∧ (∀ k, .error k ∈ new → t.activity = .idle) ∧
      (∀ v, .value v ∈ new → t.activity = .idle)

/-! ## Invariants -/

/-- The state after reset meets the invariant. -/
def Obligations.InvariantHoldsAtReset : Prop := State.reset.Inv

/-- Every step keeps the invariant: the cursor stays inside its buffer, a running decoder has its ids, every MSG ever delivered
is a valid frame whose records are its bytes (43 R152, 41 R105, R110), and `StuckConsumption` and `DecodeOutOfBounds` are
never delivered (41 R108, 60 R183). -/
def Obligations.EveryStepKeepsTheInvariant : Prop :=
  ∀ s t : State, s.Inv → step s = .next t → t.Inv

/-- No step ends in a fault, and the only stop is a request whose bytes are no request of the model's layout (assumption 5),
made of an idle block; in every other case the machine goes on (60 R188: "No operation is fatal"). -/
def Obligations.StepNeverFaults : Prop :=
  ∀ s : State, (∀ f, step s ≠ .fault f) ∧
    ∀ r, step s = .refused r → r = .malformedRequest ∧ s.activity = .idle ∧
      ∃ bytes later e, s.host = .request bytes :: later ∧ decode .command bytes = .error e

/-! ## Fetch, decode, encode -/

/-- A step runs the instruction its bytes decode to: a request on the command interface, or the frame at the cursor of a
running PROCESS_ALL when the host asks nothing. Bytes at the cursor that match no frame row are run without an instruction
(assumption 15): whether the host has no act left or its next is idle or ack, they end PROCESS_ALL with the outcome of the
first row of R67 that holds, and some row holds; with the ids not written, with the refusal `IdsUnset` (assumption 17). That
such a turn leaves the accumulators as they are is assumption 12. The host's acts are the model's (assumption 2). -/
def Obligations.StepRunsTheFetchedInstruction : Prop :=
  (∀ (s : State) (bytes : List Byte) (later : List HostAct) (i : Instr), s.host = .request bytes :: later →
    decode .command bytes = .ok i → step s = exec i { s with host := later }) ∧
  (∀ (s : State) (sc : Scan) (i : Instr), s.activity = .scanning sc → decode .buffer (sc.buffer.drop sc.pos) = .ok i →
    (s.host = [] → step s = exec i s) ∧
    (∀ a later, s.host = a :: later → (a = .idle ∨ a = .ack) → step s = exec i { s with host := later })) ∧
  (∀ (s : State) (sc : Scan) (e : DecodeError), s.activity = .scanning sc → s.Unasked →
    decode .buffer (sc.buffer.drop sc.pos) = .error e →
    (s.idsWritten = false → step s = .next { s with
      host := s.host.tail, activity := .idle, outputs := s.outputs ++ [Output.refused .idsUnset] }) ∧
    (s.idsWritten = true →
      (∃ row, row ≤ 11 ∧ FirstIllegal s.ids (sc.buffer.drop sc.pos) row) ∧
      ∀ row, FirstIllegal s.ids (sc.buffer.drop sc.pos) row → step s = .next { s with
        host := s.host.tail
        activity := .idle
        outputs := s.outputs ++ [if row = 7 ∧ sc.allowPartial = true then .value (.remaining (sc.buffer.drop sc.pos))
          else .error (rowKind row)] }))

/-- The instruction decoded at the cursor does with its fields exactly what R105 does with the bytes there: no bit of the
frame is lost between the two. -/
def Obligations.FrameInstructionAgreesWithItsBytes : Prop :=
  ∀ (s : State) (sc : Scan) (bytes : List Byte) (i : Instr), s.activity = .scanning sc →
    decode .buffer bytes = .ok i → exec i s = .next (s.turn sc bytes)

/-- A word of the opcode table placed by `withFetchWord` is what the next step runs (assumption 18). -/
def Obligations.PlacedTableWordRunsNext : Prop :=
  ∀ (s : State) (nbits w : Nat) (i : Instr), decodeTableWord nbits w = some i →
    ∃ t, step (s.withFetchWord nbits w) = exec i t ∧ t.acc8 = s.acc8 ∧ t.acc16 = s.acc16 ∧ t.ids = s.ids ∧
      t.idsWritten = s.idsWritten ∧ t.outputs = s.outputs ∧ t.host = s.host ∧ t.bufMax = s.bufMax ∧
      t.draws = s.draws

/-- Decoding the encoding of a well-formed instruction gives it back, with every operand: all frames, complete and cut
(R51, R53, R55, R56, R75), and all requests (R74; the operand layout is the model's, assumption 4). -/
def Obligations.DecodeOfEncodeIsTheInstruction : Prop :=
  ∀ i : Instr, i.wellFormed = true → decode i.space (encode i) = .ok i

/-- 30_encoding R74 (with R75's mask 1F): the 5-bit `op` of each operation; the low five bits of a request's first byte select
the operation, and the unassigned numbers are refused as `UnknownOperation`. That `op` stands in a first byte of its own, with
the operand bytes after it, is the model's layout (assumption 4), and that the step delivers the refusal and the run goes on
is assumption 1. -/
def Obligations.OperationNumbersSelectTheOperation : Prop :=
  (∀ i : Instr, i.space = .command → ∃ rest, encode i = opNumber i :: rest ∧ (opNumber i).toNat ≤ 0x10) ∧
  (∀ (b : Byte) (args : List Byte) (i : Instr), decode .command (b :: args) = .ok i → opNumber i = b &&& 0x1F#8) ∧
  (∀ (b : Byte) (args : List Byte), 0x11 ≤ b.toNat % 32 →
    decode .command (b :: args) = .error (.unknownOperation (b.toNat % 32)) ∧
    ∀ (s : State) (later : List HostAct), s.host = .request (b :: args) :: later → s.activity = .idle →
      step s = .next { s with host := later, outputs := s.outputs ++ [Output.refused .unknownOperation] })

/-- Words written out from the spec: the source's worked read request (V2, R61), V21's read response (R62), V11's write (R63),
the acknowledgement F4 (R65), a frame of unknown code (R66, V22 row 31), and requests with `op` of R74: their operand bytes
and the flag byte are the model's layout (assumption 4). -/
def Obligations.WrittenOutWordsDecode : Prop :=
  decode .buffer scenarioFrame =
    .ok (.readReq ⟨2#8, 1#8, 12#8, 0xF6#8, 2#16, 1#16, .whole 92#8 120#16 [] 0x7BC6#16⟩) ∧
  decode .buffer [0x69#8, 0x01#8, 0x02#8, 0x84#8, 0x00#8, 0x00#8, 0x10#8, 0x01#8, 0x01#8, 0x00#8, 0x02#8, 0x00#8, 0x50#8,
      0x80#8, 0x00#8, 0x04#8, 0x78#8, 0x00#8, 0x34#8, 0x12#8, 0x85#8, 0xFF#8, 0x9C#8, 0x2B#8] =
    .ok (.readResp ⟨1#8, 2#8, 16#8, 0x01#8, 1#16, 2#16,
      .whole 4#8 120#16 [0x34#8, 0x12#8, 0x85#8, 0xFF#8] 0x9C2B#16⟩) ∧
  decode .buffer [0x69#8, 0x02#8, 0x01#8, 0x84#8, 0x00#8, 0x00#8, 0x0E#8, 0x89#8, 0x02#8, 0x00#8, 0x01#8, 0x00#8, 0x60#8,
      0x80#8, 0x00#8, 0x02#8, 0x30#8, 0x01#8, 0x01#8, 0x00#8, 0x23#8, 0x85#8] =
    .ok (.writePush ⟨2#8, 1#8, 14#8, 0x89#8, 2#16, 1#16, .whole 2#8 304#16 [0x01#8, 0x00#8] 0x2385#16⟩) ∧
  decode .buffer [0x69#8, 0x01#8, 0x02#8, 0x84#8, 0x00#8, 0x00#8, 0x0C#8, 0x84#8, 0x01#8, 0x00#8, 0x02#8, 0x00#8, 0x70#8,
      0x80#8, 0x00#8, 0x02#8, 0x30#8, 0x01#8, 0xFC#8, 0x7B#8] =
    .ok (.writeAck ⟨1#8, 2#8, 12#8, 0x84#8, 1#16, 2#16, .whole 2#8 304#16 [] 0xFC7B#16⟩) ∧
  decode .buffer [0x69#8, 0x02#8, 0x01#8, 0x84#8, 0x00#8, 0x00#8, 0x0C#8, 0xF6#8, 0x02#8, 0x00#8, 0x01#8, 0x00#8, 0x41#8,
      0x80#8, 0x00#8, 0x5C#8, 0x78#8, 0x00#8, 0x3E#8, 0x66#8] =
    .ok (.frameOther 0x41#8 ⟨2#8, 1#8, 12#8, 0xF6#8, 2#16, 1#16, .whole 92#8 120#16 [] 0x3E66#16⟩) ∧
  decode .command [0x03#8, 0x69#8] = .ok (.crc8Msg [0x69#8]) ∧
  decode .command [0x0D#8, 0x01#8, 0xAA#8] = .ok (.processAll [0xAA#8] true) ∧
  decode .command [0x11#8] = .error (.unknownOperation 0x11)
end

