-- ==== Sys2Proof/Laws/Bytes.lean ====
section
/-! SUPPORT. Field assembly, byte reads and slices: what the decoder and the encoder are made of. -/

namespace Sys2Proof

/-! ## Assembly -/

@[simp] theorem lo8_le16 (a b : Byte) : lo8 (le16 a b) = a := by
  unfold lo8 le16; exact BitVec.extractLsb'_append_eq_right
@[simp] theorem hi8_le16 (a b : Byte) : hi8 (le16 a b) = b := by
  unfold hi8 le16; exact BitVec.extractLsb'_append_eq_left
@[simp] theorem le16_lo8_hi8 (v : Half) : le16 (lo8 v) (hi8 v) = v := by
  unfold le16 lo8 hi8
  apply BitVec.eq_of_getLsbD_eq
  intro i hi
  simp only [BitVec.getLsbD_append, BitVec.getLsbD_extractLsb']
  by_cases h : i < 8
  · simp [h]
  · simp [h, show i - 8 < 8 by omega, show 8 + (i - 8) = i by omega]
theorem be16_eq_le16 (hi lo : Byte) : be16 hi lo = le16 lo hi := rfl
@[simp] theorem be16_hi8_lo8 (v : Half) : be16 (hi8 v) (lo8 v) = v := le16_lo8_hi8 v
@[simp] theorem lo8_be16 (a b : Byte) : lo8 (be16 a b) = b := lo8_le16 b a
@[simp] theorem hi8_be16 (a b : Byte) : hi8 (be16 a b) = a := hi8_le16 b a
theorem toNat_le16 (b0 b1 : Byte) : (le16 b0 b1).toNat = b0.toNat + 256 * b1.toNat := by
  unfold le16
  rw [BitVec.toNat_append, ← Nat.shiftLeft_add_eq_or_of_lt b0.isLt]
  simp [Nat.shiftLeft_eq]; omega
theorem toNat_be16 (hi lo : Byte) : (be16 hi lo).toNat = 256 * hi.toNat + lo.toNat := by
  rw [be16_eq_le16, toNat_le16]; omega
theorem toNat_le24 (b0 b1 b2 : Byte) : (le24 b0 b1 b2).toNat = b0.toNat + 256 * b1.toNat + 65536 * b2.toNat := by
  unfold le24
  rw [BitVec.toNat_append, ← Nat.shiftLeft_add_eq_or_of_lt (BitVec.isLt _)]
  have : (b1 ++ b0 : Half).toNat = b0.toNat + 256 * b1.toNat := toNat_le16 b0 b1
  simp only [this, Nat.shiftLeft_eq]; omega
theorem le16_inj {a b c d : Byte} : le16 a b = le16 c d ↔ a = c ∧ b = d := by
  constructor
  · intro h; exact ⟨by simpa using congrArg lo8 h, by simpa using congrArg hi8 h⟩
  · rintro ⟨rfl, rfl⟩; rfl
theorem le24_inj {a b c d e f : Byte} : le24 a b c = le24 d e f ↔ a = d ∧ b = e ∧ c = f := by
  constructor
  · intro h
    have h := congrArg BitVec.toNat h
    simp only [toNat_le24] at h
    refine ⟨BitVec.eq_of_toNat_eq ?_, BitVec.eq_of_toNat_eq ?_, BitVec.eq_of_toNat_eq ?_⟩ <;> 
      have := a.isLt <;> have := b.isLt <;> have := c.isLt <;> have := d.isLt <;> have := e.isLt <;> have := f.isLt <;> omega
  · rintro ⟨rfl, rfl, rfl⟩; rfl
theorem bytes24_le24 (a b c : Byte) : bytes24 (le24 a b c) = [a, b, c] := by
  unfold bytes24 le24
  simp only [List.cons.injEq, and_true]
  refine ⟨?_, ?_, ?_⟩ <;>
  · apply BitVec.eq_of_getLsbD_eq
    intro i hi
    simp only [BitVec.getLsbD_append, BitVec.getLsbD_extractLsb']
    have : i < 8 := hi
    try simp [hi, show i < 16 by omega]
    try simp [show 8 + i < 16 by omega]
@[simp] theorem le24_bytes24 (v : U24) :
    le24 (v.extractLsb' 0 8) (v.extractLsb' 8 8) (v.extractLsb' 16 8) = v := by
  apply BitVec.eq_of_toNat_eq
  rw [toNat_le24]
  simp [BitVec.extractLsb'_toNat, Nat.shiftRight_eq_div_pow]
  have := v.isLt
  omega

theorem be16_eq_iff (a b : Byte) (c : Half) : be16 a b = c ↔ [a, b] = [hi8 c, lo8 c] := by
  constructor
  · rintro rfl; simp
  · intro h
    simp only [List.cons.injEq, and_true] at h
    rw [h.1, h.2, be16_hi8_lo8]

theorem le24_eq_hardConst (a b c : Byte) : le24 a b c = hardConst ↔ a = 0x84#8 ∧ b = 0x00#8 ∧ c = 0x00#8 := by
  rw [show hardConst = le24 0x84#8 0x00#8 0x00#8 by decide, le24_inj]

theorem le16_eq_softConst (a b : Byte) : le16 a b = softConst ↔ a = 0x80#8 ∧ b = 0x00#8 := by
  rw [show softConst = le16 0x80#8 0x00#8 by decide, le16_inj]

/-! ## Reads -/

@[simp] theorem byteAt_cons_zero (b : Byte) (F : List Byte) : byteAt (b :: F) 0 = b := rfl

@[simp] theorem byteAt_cons_succ (b : Byte) (F : List Byte) (n : Nat) : byteAt (b :: F) (n + 1) = byteAt F n := rfl

theorem byteAt_eq_getElem {F : List Byte} {k : Nat} (h : k < F.length) : byteAt F k = F[k] := by
  simp [byteAt, List.getD_eq_getElem?_getD, h]

theorem byteAt_take (F : List Byte) (n k : Nat) (h : k < n) : byteAt (F.take n) k = byteAt F k := by
  simp [byteAt, List.getD_eq_getElem?_getD, h]

theorem byteAt_drop (F : List Byte) (n k : Nat) : byteAt (F.drop n) k = byteAt F (n + k) := by
  simp [byteAt, List.getD_eq_getElem?_getD, List.getElem?_drop]

theorem byteAt_append_left {F B : List Byte} {k : Nat} (h : k < F.length) : byteAt (F ++ B) k = byteAt F k := by
  simp [byteAt, List.getD_eq_getElem?_getD, List.getElem?_append, h]

theorem byteAt_slice (F : List Byte) (i j k : Nat) (h : i + k < j) : byteAt (slice F i j) k = byteAt F (i + k) := by
  simp [byteAt, slice, List.getD_eq_getElem?_getD, List.getElem?_drop, h]

theorem length_slice (F : List Byte) (i j : Nat) : (slice F i j).length = min j F.length - i := by
  simp [slice]

/-! ## Words -/

@[simp] theorem halvesOf_bytesOfHalves (values : List Half) : halvesOf (bytesOfHalves values) = values := by
  induction values with
  | nil => rfl
  | cons v rest ih => simp [bytesOfHalves, halvesOf, ih]

theorem length_bytesOfHalves (values : List Half) : (bytesOfHalves values).length = 2 * values.length := by
  induction values with
  | nil => rfl
  | cons v rest ih => simp [bytesOfHalves, ih]; omega

end Sys2Proof
end

