-- ==== Sys2Proof/Laws/Crc.lean ====
section
/-! SUPPORT. The rounds and the steps of the CRC engine: they distribute over XOR, and only 0 goes to 0. -/

namespace Sys2Proof.Machine

theorem crc8Round_xor (a b : Byte) : crc8Round (a ^^^ b) = crc8Round a ^^^ crc8Round b := by
  unfold crc8Round
  rw [BitVec.getLsbD_xor, BitVec.shiftLeft_xor_distrib]
  cases a.getLsbD 7 <;> cases b.getLsbD 7 <;> simp
  · ac_rfl
  · ac_rfl
  · rw [BitVec.xor_assoc, ← BitVec.xor_assoc poly8]
    rw [BitVec.xor_comm poly8, BitVec.xor_assoc _ poly8, BitVec.xor_self, BitVec.xor_zero]

theorem crc16Round_xor (a b : Half) : crc16Round (a ^^^ b) = crc16Round a ^^^ crc16Round b := by
  unfold crc16Round
  rw [BitVec.getLsbD_xor, BitVec.shiftLeft_xor_distrib]
  cases a.getLsbD 15 <;> cases b.getLsbD 15 <;> simp
  · ac_rfl
  · ac_rfl
  · rw [BitVec.xor_assoc, ← BitVec.xor_assoc poly16]
    rw [BitVec.xor_comm poly16, BitVec.xor_assoc _ poly16, BitVec.xor_self, BitVec.xor_zero]

theorem iterate_xor {n : Nat} (f : BitVec n → BitVec n) (hf : ∀ a b, f (a ^^^ b) = f a ^^^ f b) (k : Nat) (a b : BitVec n) :
    f^[k] (a ^^^ b) = f^[k] a ^^^ f^[k] b := by
  induction k generalizing a b with
  | zero => rfl
  | succ k ih => rw [Function.iterate_succ_apply, hf, ih]; rfl

theorem crc8Step_xor (a b c d : Byte) : crc8Step (a ^^^ b) (c ^^^ d) = crc8Step a c ^^^ crc8Step b d := by
  unfold crc8Step
  rw [← iterate_xor _ crc8Round_xor]; congr 1; ac_rfl

theorem crc16Step_xor (a b : Half) (c d : Byte) : crc16Step (a ^^^ b) (c ^^^ d) = crc16Step a c ^^^ crc16Step b d := by
  unfold crc16Step
  rw [← iterate_xor _ crc16Round_xor]; congr 1
  rw [show ((c ^^^ d).zeroExtend 16 : Half) = c.zeroExtend 16 ^^^ d.zeroExtend 16 by simp [BitVec.setWidth_xor],
    BitVec.shiftLeft_xor_distrib]
  ac_rfl

theorem crc16Round_eq_zero (a : Half) (h : crc16Round a = 0#16) : a = 0#16 := by
  unfold crc16Round poly16 at h
  split at h
  · have := congrArg (fun v => v.getLsbD 0) h
    simp at this
  · rename_i hm
    apply BitVec.eq_of_getLsbD_eq
    intro i hi
    by_cases h15 : i = 15
    · subst h15; simpa using hm
    · have := congrArg (fun v => v.getLsbD (i + 1)) h
      rw [BitVec.getLsbD_eq_getElem hi]
      simpa [show i + 1 < 16 by omega] using this

theorem crc8Round_eq_zero : ∀ a : Byte, crc8Round a = 0#8 → a = 0#8 := by decide +kernel

theorem iterate_eq_zero {n} (f : BitVec n → BitVec n) (hk : ∀ a, f a = 0 → a = 0) (k : Nat) (a : BitVec n) (h : f^[k] a = 0) : a = 0 := by
  induction k generalizing a with
  | zero => exact h
  | succ k ih => rw [Function.iterate_succ_apply] at h; exact hk _ (ih _ h)

end Sys2Proof.Machine
end

