-- ==== Sys2Proof/Laws/Decoder.lean ====
section
/-! SUPPORT. The parsers, the validators and `processFrame`, each in the terms of Safety.lean: what one frame can come to. -/

namespace Sys2Proof.Machine

/-- PARSE_HARD reads `headerAt`. -/
theorem parseHard_eq (buf : List Byte) :
    parseHard buf = if buf.length < 8 then .error .frameTooShort else .ok (headerAt buf) := by
  unfold parseHard hardLen
  split
  · rfl
  · simp only [memRead, List.drop_zero, headerAt, byteAt_take, Nat.reduceLT, slice]
    simp [List.take_take]

/-- PARSE_SOFT on the bytes behind a header reads `messageAt`. -/
theorem parseSoft_eq (F : List Byte) (h8 : 8 ≤ F.length) :
    parseSoft (slice F 8 (8 + (byteAt F 6).toNat)) (byteAt F 6) =
      if F.length < 8 + (byteAt F 6).toNat then .error .softLengthMismatch
      else if (byteAt F 6).toNat < 12 then .error .softMessageTooShort
      else .ok (messageAt F) := by
  generalize hL : (byteAt F 6).toNat = L
  unfold parseSoft softMin
  simp only [length_slice, hL]
  by_cases h1 : F.length < 8 + L
  · rw [if_pos (by omega), if_pos h1]
  · rw [if_neg (by omega), if_neg h1]
    by_cases h2 : L < 12
    · rw [if_pos (by omega), if_pos h2]
    · rw [if_neg (by omega), if_neg h2]
      rw [byteAt_slice _ _ _ _ (by omega), byteAt_slice _ _ _ _ (by omega), byteAt_slice _ _ _ _ (by omega),
        byteAt_slice _ _ _ _ (by omega), byteAt_slice _ _ _ _ (by omega), byteAt_slice _ _ _ _ (by omega),
        byteAt_slice _ _ _ _ (by omega), byteAt_slice _ _ _ _ (by omega), byteAt_slice _ _ _ _ (by omega),
        byteAt_slice _ _ _ _ (by omega), byteAt_slice _ _ _ _ (by omega), byteAt_slice _ _ _ _ (by omega),
        show 8 + (L - 2) = 6 + L by omega, show 8 + (L - 1) = 7 + L by omega]
      simp only [messageAt, hL, slice]
      congr 2
      · rw [List.take_drop, List.drop_drop, List.drop_take, List.drop_take, List.take_take]
        congr 1; omega
      · rw [List.drop_zero, List.take_drop, List.take_take, List.drop_take]
        congr 2; omega

theorem Ids.known_iff (ids : Ids) (a : Byte) : ids.known a = true ↔ ids.Configured a := by
  simp [Ids.known, Ids.Configured]

theorem Ids.logicalOf_eq_some_iff (ids : Ids) (a : Byte) (v : Half) : ids.logicalOf a = some v ↔ ids.Bound a v := by
  unfold Ids.logicalOf Ids.Bound
  split
  · rename_i h; simp [h, eq_comm]
  · rename_i h1
    split
    · rename_i h2; simp [h1, ← h2, eq_comm]
    · rename_i h2; simp [h1, h2]

theorem softError_of_bound {ids : Ids} {h : HardHeader} {sh : SoftMessage} (hc : sh.crc16 = sh.calcCrc16)
    (hk : sh.constByte = softConst) (hf : ids.Bound h.fromHard sh.fromLogical) (ht : ids.Bound h.toHard sh.toLogical) :
    softError ids h sh = none := by
  rw [← Ids.logicalOf_eq_some_iff] at hf ht
  simp [softError, hc, hk, hf, ht]

theorem softError_of_not_bound {ids : Ids} {h : HardHeader} {sh : SoftMessage} (hc : sh.crc16 = sh.calcCrc16)
    (hk : sh.constByte = softConst)
    (hb : ¬ (ids.Bound h.fromHard sh.fromLogical ∧ ids.Bound h.toHard sh.toLogical)) :
    softError ids h sh = some .invalidSoftAddress := by
  rw [← Ids.logicalOf_eq_some_iff, ← Ids.logicalOf_eq_some_iff] at hb
  simp only [softError, hc, hk, ne_eq, not_true_eq_false, if_false]
  split
  · rename_i ef et h1 h2
    rw [if_pos]
    rw [h1, h2] at hb
    by_contra hn
    push Not at hn
    exact hb ⟨by rw [hn.1], by rw [hn.2]⟩
  · rfl

/-- The rows in a row: `processFrame` tests them one after another. -/
theorem processFrame_eq (ids : Ids) (F : List Byte) (ap : Bool) [∀ row, Decidable (IllegalRow ids F row)] :
    processFrame ids F ap =
      if IllegalRow ids F 1 then .raised .frameTooShort
      else if IllegalRow ids F 2 then .raised .invalidStartByte
      else if IllegalRow ids F 3 then .raised .invalidHardChecksum
      else if IllegalRow ids F 4 then .raised .invalidConstBytes
      else if IllegalRow ids F 5 then .raised .invalidHardAddress
      else if IllegalRow ids F 6 then .raised .hardAddressCollision
      else if IllegalRow ids F 7 then (if ap = true then .waits else .raised .softLengthMismatch)
      else if IllegalRow ids F 8 then .raised .softMessageTooShort
      else if IllegalRow ids F 9 then .raised .invalidSoftChecksum
      else if IllegalRow ids F 10 then .raised .invalidSoftConst
      else if IllegalRow ids F 11 then .raised .invalidSoftAddress
      else .delivered (headerAt F) (messageAt F) (F.take (8 + (byteAt F 6).toNat)) (8 + (byteAt F 6).toNat)
        (F.drop (8 + (byteAt F 6).toNat)) := by
  unfold processFrame
  rw [parseHard_eq]
  by_cases h1 : F.length < 8
  · simp [h1, IllegalRow]
  simp only [if_neg h1]
  rw [if_neg (show ¬ IllegalRow ids F 1 from h1)]
  have e4 : (headerAt F).constBytes = hardConst ↔ ¬ IllegalRow ids F 4 := by
    simpa [IllegalRow, headerAt] using le24_eq_hardConst (byteAt F 3) (byteAt F 4) (byteAt F 5)
  have e5 : (ids.known (headerAt F).fromHard = false ∨ ids.known (headerAt F).toHard = false) ↔ IllegalRow ids F 5 := by
    simp only [Bool.eq_false_iff, ne_eq, Ids.known_iff]; exact or_comm
  have e6 : (headerAt F).fromHard = (headerAt F).toHard ↔ IllegalRow ids F 6 := eq_comm
  by_cases h2 : IllegalRow ids F 2
  · rw [if_pos h2]; simp [hardError, show (headerAt F).startByte ≠ startByte from h2]
  have g2 : ¬ ((headerAt F).startByte ≠ startByte) := h2
  rw [if_neg h2]
  by_cases h3 : IllegalRow ids F 3
  · rw [if_pos h3]; simp only [hardError, if_neg g2, if_pos (show (headerAt F).crc8 ≠ (headerAt F).calcCrc8 from h3)]
  have g3 : ¬ ((headerAt F).crc8 ≠ (headerAt F).calcCrc8) := h3
  rw [if_neg h3]
  by_cases h4 : IllegalRow ids F 4
  · rw [if_pos h4]; simp only [hardError, if_neg g2, if_neg g3, ne_eq, e4, not_not, if_pos h4]
  rw [if_neg h4]
  by_cases h5 : IllegalRow ids F 5
  · rw [if_pos h5]; simp only [hardError, if_neg g2, if_neg g3, ne_eq, e4, not_not, if_neg h4, if_pos (e5.2 h5)]
  rw [if_neg h5]
  by_cases h6 : IllegalRow ids F 6
  · rw [if_pos h6]
    simp only [hardError, if_neg g2, if_neg g3, ne_eq, e4, not_not, if_neg h4, if_neg (mt e5.1 h5), if_pos (e6.2 h6)]
  rw [if_neg h6]
  have hard : hardError ids (headerAt F) = none := by
    simp only [hardError, if_neg g2, if_neg g3, ne_eq, e4, not_not, if_neg h4, if_neg (mt e5.1 h5), if_neg (mt e6.1 h6)]
  rw [hard]
  simp only [show (headerAt F).payloadLength = byteAt F 6 from rfl, hardLen]
  rw [parseSoft_eq F (by omega)]
  by_cases h7 : IllegalRow ids F 7
  · have g7 : F.length < 8 + (byteAt F 6).toNat := h7
    rw [if_pos h7]
    cases ap <;> simp [g7]
  have g7 : ¬ F.length < 8 + (byteAt F 6).toNat := h7
  rw [if_neg h7, if_neg (fun h => g7 h.2), if_neg g7]
  by_cases h8 : IllegalRow ids F 8
  · rw [if_pos h8, if_pos (show (byteAt F 6).toNat < 12 from h8)]
  rw [if_neg h8, if_neg (show ¬ (byteAt F 6).toNat < 12 from h8)]
  have e9 : (messageAt F).crc16 = (messageAt F).calcCrc16 ↔ ¬ IllegalRow ids F 9 := by
    simp only [messageAt, IllegalRow, ne_eq, not_not, be16_eq_iff]
  have e10 : (messageAt F).constByte = softConst ↔ ¬ IllegalRow ids F 10 := by
    simpa [IllegalRow, messageAt] using le16_eq_softConst (byteAt F 13) (byteAt F 14)
  by_cases h9 : IllegalRow ids F 9
  · rw [if_pos h9]; simp only [softError, ne_eq, e9, not_not, if_pos h9]
  rw [if_neg h9]
  by_cases h10 : IllegalRow ids F 10
  · rw [if_pos h10]; simp only [softError, ne_eq, e9, e10, not_not, if_neg h9, if_pos h10]
  rw [if_neg h10]
  by_cases h11 : IllegalRow ids F 11
  · have soft : softError ids (headerAt F) (messageAt F) = some .invalidSoftAddress :=
      softError_of_not_bound (e9.2 h9) (e10.2 h10) (fun hb => h11.elim (fun h => h hb.2) (fun h => h hb.1))
    simp only [soft, if_pos h11]
  · have g11 := not_or.1 h11
    have soft : softError ids (headerAt F) (messageAt F) = none :=
      softError_of_bound (e9.2 h9) (e10.2 h10) (not_not.1 g11.2) (not_not.1 g11.1)
    simp only [soft, if_neg h11]

theorem illegalRow_range {ids : Ids} {F : List Byte} {row : Nat} (h : IllegalRow ids F row) : 1 ≤ row ∧ row ≤ 11 := by
  unfold IllegalRow at h
  split at h <;> first | omega | exact h.elim

/-- Either the bytes are legal, or one of the eleven rows is the first that holds. -/
theorem legal_or_firstIllegal (ids : Ids) (F : List Byte) :
    Legal ids F ∨ ∃ row, row ≤ 11 ∧ FirstIllegal ids F row := by
  classical
  by_cases h : ∃ row, IllegalRow ids F row
  · exact .inr ⟨Nat.find h, (illegalRow_range (Nat.find_spec h)).2, Nat.find_spec h, fun k hk => Nat.find_min h hk⟩
  · exact .inl (not_exists.1 h)

theorem processFrame_of_firstIllegal {ids : Ids} {F : List Byte} {row : Nat} (h : FirstIllegal ids F row) (ap : Bool) :
    processFrame ids F ap = if row = 7 ∧ ap = true then .waits else .raised (rowKind row) := by
  classical
  obtain ⟨h, hlt⟩ := h
  have hr := illegalRow_range h
  rw [processFrame_eq]
  obtain ⟨h1, h2⟩ := hr
  interval_cases row <;> simp only [h, hlt, Nat.reduceLT, if_true, if_false, Nat.reduceEqDiff, false_and, true_and, rowKind]

theorem processFrame_of_legal {ids : Ids} {F : List Byte} (h : Legal ids F) (ap : Bool) :
    processFrame ids F ap =
      .delivered (headerAt F) (messageAt F) (F.take (8 + (byteAt F 6).toNat)) (8 + (byteAt F 6).toNat)
        (F.drop (8 + (byteAt F 6).toNat)) := by
  classical
  rw [processFrame_eq]
  simp only [h _, if_false]

theorem legal_of_delivered {ids : Ids} {F : List Byte} {ap : Bool} {h sh raw n rest}
    (hd : processFrame ids F ap = .delivered h sh raw n rest) :
    Legal ids F ∧ h = headerAt F ∧ sh = messageAt F ∧ n = 8 + (byteAt F 6).toNat ∧
      raw = F.take n ∧ rest = F.drop n := by
  rcases legal_or_firstIllegal ids F with hl | ⟨row, -, hf⟩
  · rw [processFrame_of_legal hl] at hd
    simp only [OneOutcome.delivered.injEq] at hd
    obtain ⟨rfl, rfl, rfl, rfl, rfl⟩ := hd
    exact ⟨hl, rfl, rfl, rfl, rfl, rfl⟩
  · rw [processFrame_of_firstIllegal hf] at hd
    split at hd <;> cases hd

theorem Legal.length {ids : Ids} {F : List Byte} (h : Legal ids F) :
    12 ≤ (byteAt F 6).toNat ∧ 8 + (byteAt F 6).toNat ≤ F.length := by
  have h7 := h 7
  have h8 := h 8
  simp only [IllegalRow] at h7 h8
  omega

theorem processFrame_waits {ids F ap} (h : processFrame ids F ap = .waits) : ap = true := by
  rcases legal_or_firstIllegal ids F with hl | ⟨row, -, hf⟩
  · rw [processFrame_of_legal hl] at h; cases h
  · rw [processFrame_of_firstIllegal hf] at h; split at h
    · rename_i h2; exact h2.2
    · cases h

theorem processFrame_raised {ids F ap k} (h : processFrame ids F ap = .raised k) : ∃ row, k = rowKind row := by
  rcases legal_or_firstIllegal ids F with hl | ⟨row, -, hf⟩
  · rw [processFrame_of_legal hl] at h; cases h
  · rw [processFrame_of_firstIllegal hf] at h; split at h
    · cases h
    · cases h; exact ⟨row, rfl⟩

/-- A turn of the loop on bytes of which a row of R67 is the first to hold. -/
theorem turn_of_firstIllegal {s : State} {F : List Byte} {row : Nat} (hw : s.idsWritten = true) (h : FirstIllegal s.ids F row)
    (sc : Scan) : s.turn sc F = { s with
      activity := .idle
      outputs := s.outputs ++ [if row = 7 ∧ sc.allowPartial = true then .value (.remaining sc.rest) else .error (rowKind row)] } := by
  unfold State.turn
  rw [processFrame_of_firstIllegal h, if_neg (by simp [hw])]
  by_cases h7 : row = 7 ∧ sc.allowPartial = true
  · simp only [h7, and_self, if_true, State.afterOne]; rfl
  · simp only [if_neg h7]; rfl

/-- The error kind a turn of the loop raises, if it raises one, is that of a row of R67. -/
theorem turn_error {s : State} {sc : Scan} {F : List Byte} {k : ErrorKind}
    (h : (s.turn sc F).outputs = s.outputs ++ [.error k]) : ∃ row, k = rowKind row := by
  unfold State.turn at h
  split at h
  · simp [State.refuse] at h
  · split at h
    · rename_i hp
      obtain ⟨row, rfl⟩ := processFrame_raised hp
      simp only [State.raise, List.append_cancel_left_eq, List.cons.injEq, Output.error.injEq, and_true] at h
      exact ⟨row, h.symm⟩
    · rename_i hp
      simp [State.afterOne, processFrame_waits hp, State.finish] at h
    · simp [State.emit] at h

end Sys2Proof.Machine
end

