-- ==== Sys2Proof/Laws/Frames.lean ====
section
/-! SUPPORT. The frame rows: which bytes match, what is read from them, what is written back, and a frame's turn at the cursor. -/

namespace Sys2Proof.Machine

theorem range15 : List.range 15 = [0,1,2,3,4,5,6,7,8,9,10,11,12,13,14] := rfl

theorem and_ff (b : Byte) : b &&& 0xFF#8 = b := by
  have : (0xFF#8) = BitVec.allOnes 8 := rfl
  rw [this, BitVec.and_allOnes]

theorem matches_known (k : FrameKind) (fn : Byte) (F : List Byte) :
    (FrameRow.mk k (rowMatch fn) knownMask).matches F = true ↔
      15 ≤ F.length ∧ byteAt F 0 = 0x69#8 ∧ byteAt F 3 = 0x84#8 ∧ byteAt F 4 = 0x00#8 ∧ byteAt F 5 = 0x00#8 ∧
        byteAt F 12 = fn ∧ byteAt F 13 = 0x80#8 ∧ byteAt F 14 = 0x00#8 := by
  simp only [FrameRow.matches, range15, Bool.and_eq_true, decide_eq_true_eq, List.all_cons, List.all_nil, beq_iff_eq,
    Bool.and_true]
  simp only [rowMatch, knownMask, show ∀ l i, byteAt l i = l.getD i 0#8 from fun _ _ => rfl]
  simp only [List.getD_cons_zero, List.getD_cons_succ, and_ff, BitVec.and_zero, true_and]

theorem matches_other (k : FrameKind) (F : List Byte) :
    (FrameRow.mk k (rowMatch 0x00#8) otherMask).matches F = true ↔
      15 ≤ F.length ∧ byteAt F 0 = 0x69#8 ∧ byteAt F 3 = 0x84#8 ∧ byteAt F 4 = 0x00#8 ∧ byteAt F 5 = 0x00#8 ∧
        byteAt F 13 = 0x80#8 ∧ byteAt F 14 = 0x00#8 := by
  simp only [FrameRow.matches, range15, Bool.and_eq_true, decide_eq_true_eq, List.all_cons, List.all_nil, beq_iff_eq,
    Bool.and_true]
  simp only [rowMatch, otherMask, show ∀ l i, byteAt l i = l.getD i 0#8 from fun _ _ => rfl]
  simp only [List.getD_cons_zero, List.getD_cons_succ, and_ff, BitVec.and_zero, true_and]

/-- The bytes every frame row asks for (30_encoding R75). -/
def Spelled (F : List Byte) : Prop :=
  15 ≤ F.length ∧ byteAt F 0 = 0x69#8 ∧ byteAt F 3 = 0x84#8 ∧ byteAt F 4 = 0x00#8 ∧ byteAt F 5 = 0x00#8 ∧
    byteAt F 13 = 0x80#8 ∧ byteAt F 14 = 0x00#8

/-- The row of a function code. -/
def kindOf (fn : Byte) : FrameKind :=
  if fn = 0x40#8 then .readReq else if fn = 0x50#8 then .readResp else if fn = 0x60#8 then .writePush
  else if fn = 0x70#8 then .writeAck else .other

theorem classify_spelled {F : List Byte} (h : Spelled F) : classify F = some (kindOf (byteAt F 12)) := by
  obtain ⟨h1, h2, h3, h4, h5, h6, h7⟩ := h
  have hk : ∀ k fn, (FrameRow.mk k (rowMatch fn) knownMask).matches F = decide (byteAt F 12 = fn) := by
    intro k fn
    rw [Bool.eq_iff_iff, matches_known, decide_eq_true_eq]
    simp [h1, h2, h3, h4, h5, h6, h7]
  have ho : (FrameRow.mk .other (rowMatch 0x00#8) otherMask).matches F = true := by
    rw [matches_other]; exact ⟨h1, h2, h3, h4, h5, h6, h7⟩
  unfold classify frameRows kindOf
  simp only [List.find?, hk, ho]
  split_ifs <;> simp [*]

theorem classify_not_spelled {F : List Byte} (h : ¬ Spelled F) : classify F = none := by
  have hk : ∀ k fn, (FrameRow.mk k (rowMatch fn) knownMask).matches F = false := by
    intro k fn
    rw [Bool.eq_false_iff, ne_eq, matches_known]
    rintro ⟨h1, h2, h3, h4, h5, h6, h7, h8⟩
    exact h ⟨h1, h2, h3, h4, h5, h7, h8⟩
  have ho : (FrameRow.mk .other (rowMatch 0x00#8) otherMask).matches F = false := by
    rw [Bool.eq_false_iff, ne_eq, matches_other]; exact h
  simp [classify, frameRows, List.find?, hk, ho]

theorem decodeFrame_spelled {F : List Byte} (h : Spelled F) :
    decodeFrame F = .ok ((kindOf (byteAt F 12)).instr (byteAt F 12) (readFrame F)) := by
  have : ¬ F.length < 15 := by have := h.1; omega
  simp only [decodeFrame, if_neg this, classify_spelled h]

theorem spelled_of_decodeFrame {F : List Byte} {i} (h : decodeFrame F = .ok i) :
    Spelled F ∧ i = (kindOf (byteAt F 12)).instr (byteAt F 12) (readFrame F) := by
  by_cases hs : Spelled F
  · rw [decodeFrame_spelled hs] at h; cases h; exact ⟨hs, rfl⟩
  · unfold decodeFrame at h
    rw [classify_not_spelled hs] at h
    split at h <;> cases h

theorem spelled_encodeFrame (fn : Byte) (f : Frame) : Spelled (encodeFrame fn f) ∧ byteAt (encodeFrame fn f) 12 = fn := by
  refine ⟨⟨by simp [encodeFrame], ?_⟩, rfl⟩
  exact ⟨rfl, rfl, rfl, rfl, rfl, rfl⟩

theorem readTail_encodeTail (f : Frame) (h : f.wellFormed = true) :
    readTail f.payloadLength.toNat (encodeTail f.tail) = f.tail := by
  unfold Frame.wellFormed at h
  cases ht : f.tail with
  | whole count start rest crc =>
    rw [ht] at h
    simp only [decide_eq_true_eq] at h
    have e1 : f.payloadLength.toNat - 9 = rest.length + 3 := by omega
    have e2 : f.payloadLength.toNat - 8 = rest.length + 4 := by omega
    have hl : (encodeTail (.whole count start rest crc)).length = rest.length + 5 := by simp [encodeTail]
    unfold readTail
    rw [if_pos ⟨by simp [softMin]; omega, by rw [hl]; omega⟩, e1, e2]
    have b : ∀ k, byteAt (rest ++ [hi8 crc, lo8 crc]) (rest.length + k) = byteAt [hi8 crc, lo8 crc] k := by
      intro k; simp [byteAt, List.getD_eq_getElem?_getD, List.getElem?_append]
    have b0 : byteAt (rest ++ [hi8 crc, lo8 crc]) rest.length = hi8 crc := b 0
    have b1 := b 1
    simp only [encodeTail, byteAt_cons_zero, byteAt_cons_succ, slice, show rest.length + 4 = (rest.length + 1) + 1 + 1 + 1 by omega,
      le16_lo8_hi8]
    simp only [byteAt_cons_succ, b0, b1, byteAt_cons_zero, be16_hi8_lo8]
    simp
  | cut bytes =>
    rw [ht] at h
    simp only [Bool.and_eq_true, decide_eq_true_eq] at h
    unfold readTail softMin
    rw [if_neg (by simp only [encodeTail]; omega)]
    rw [show encodeTail (.cut bytes) = bytes from rfl, List.take_of_length_le h.1]

theorem readFrame_encodeFrame (fn : Byte) (f : Frame) (h : f.wellFormed = true) : readFrame (encodeFrame fn f) = f := by
  have := readTail_encodeTail f h
  obtain ⟨a, b, c, d, e, g, t⟩ := f
  unfold readFrame
  simp only [encodeFrame, List.cons_append, byteAt_cons_zero, byteAt_cons_succ, le16_lo8_hi8, List.drop_succ_cons, List.nil_append, List.drop_zero]
  rw [Frame.mk.injEq]
  refine ⟨rfl, rfl, rfl, rfl, rfl, rfl, this⟩

theorem spelled_of_legal {ids F} (h : Legal ids F) : Spelled F := by
  have hl := h.length
  have h2 := h 2; have h4 := h 4; have h10 := h 10
  simp only [IllegalRow, not_not, ne_eq] at h2 h4 h10
  exact ⟨by omega, h2, h4.1, h4.2.1, h4.2.2, h10.1, h10.2⟩

theorem readFrame_wellFormed {F} (hm : 12 ≤ (byteAt F 6).toNat) (hl : 8 + (byteAt F 6).toNat ≤ F.length) : (readFrame F).wellFormed = true := by
  unfold readFrame Frame.wellFormed readTail
  simp only [softMin, List.length_drop]
  rw [if_pos ⟨hm, by omega⟩]
  simp [slice]; omega

theorem encode_kind (fn : Byte) (f : Frame) : encode ((kindOf fn).instr fn f) = encodeFrame fn f ∧ ((kindOf fn).instr fn f).space = .buffer ∧
   (((kindOf fn).instr fn f).wellFormed = f.wellFormed) := by
  unfold kindOf
  split_ifs with h1 h2 h3 h4
  · subst h1; exact ⟨rfl, rfl, rfl⟩
  · subst h2; exact ⟨rfl, rfl, rfl⟩
  · subst h3; exact ⟨rfl, rfl, rfl⟩
  · subst h4; exact ⟨rfl, rfl, rfl⟩
  · refine ⟨rfl, rfl, ?_⟩
    simp [FrameKind.instr, Instr.wellFormed, knownFunctionCodes, h1, h2, h3, h4]

theorem exec_frame {i : Instr} (h : i.space = .buffer) {s : State} {sc : Scan} (ha : s.activity = .scanning sc) :
    exec i s = .next (s.turn sc (encode i)) := by
  cases i <;> first | (simp only [exec, execReadReq, execReadResp, execWritePush, execWriteAck, execFrameOther, State.runFrame, ha, encode]; done) | cases h

/-- A frame that goes on was at the cursor of a running PROCESS_ALL, and its turn was taken. -/
theorem exec_buffer {i : Instr} (h : i.space = .buffer) {s t : State} (he : exec i s = .next t) :
   ∃ sc, s.activity = .scanning sc ∧ t = s.turn sc (encode i) := by
  cases ha : s.activity with
  | scanning sc => rw [exec_frame h ha] at he; cases he; exact ⟨sc, rfl, rfl⟩
  | _ => cases i <;> first | (simp [exec, execReadReq, execReadResp, execWritePush, execWriteAck, execFrameOther, State.runFrame, ha] at he; done) | cases h

end Sys2Proof.Machine
end

