-- ==== Sys2Proof/Laws/State.lean ====
section
/-! SUPPORT. One lemma per field per update, so that no proof unfolds a record update. -/

namespace Sys2Proof.Machine

@[simp] theorem State.finish_acc8 (s : State) (v : Value) : (s.finish v).acc8 = s.acc8 := rfl
@[simp] theorem State.finish_acc16 (s : State) (v : Value) : (s.finish v).acc16 = s.acc16 := rfl
@[simp] theorem State.finish_ids (s : State) (v : Value) : (s.finish v).ids = s.ids := rfl
@[simp] theorem State.finish_idsWritten (s : State) (v : Value) : (s.finish v).idsWritten = s.idsWritten := rfl
@[simp] theorem State.finish_activity (s : State) (v : Value) : (s.finish v).activity = .idle := rfl
@[simp] theorem State.finish_host (s : State) (v : Value) : (s.finish v).host = s.host := rfl
@[simp] theorem State.finish_outputs (s : State) (v : Value) : (s.finish v).outputs = s.outputs ++ [Output.value v] := rfl
@[simp] theorem State.finish_draws (s : State) (v : Value) : (s.finish v).draws = s.draws := rfl
@[simp] theorem State.finish_bufMax (s : State) (v : Value) : (s.finish v).bufMax = s.bufMax := rfl

@[simp] theorem State.raise_acc8 (s : State) (k : ErrorKind) : (s.raise k).acc8 = s.acc8 := rfl
@[simp] theorem State.raise_acc16 (s : State) (k : ErrorKind) : (s.raise k).acc16 = s.acc16 := rfl
@[simp] theorem State.raise_ids (s : State) (k : ErrorKind) : (s.raise k).ids = s.ids := rfl
@[simp] theorem State.raise_idsWritten (s : State) (k : ErrorKind) : (s.raise k).idsWritten = s.idsWritten := rfl
@[simp] theorem State.raise_activity (s : State) (k : ErrorKind) : (s.raise k).activity = .idle := rfl
@[simp] theorem State.raise_host (s : State) (k : ErrorKind) : (s.raise k).host = s.host := rfl
@[simp] theorem State.raise_outputs (s : State) (k : ErrorKind) : (s.raise k).outputs = s.outputs ++ [Output.error k] := rfl
@[simp] theorem State.raise_draws (s : State) (k : ErrorKind) : (s.raise k).draws = s.draws := rfl
@[simp] theorem State.raise_bufMax (s : State) (k : ErrorKind) : (s.raise k).bufMax = s.bufMax := rfl

@[simp] theorem State.refuse_acc8 (s : State) (r : RefusalReason) : (s.refuse r).acc8 = s.acc8 := rfl
@[simp] theorem State.refuse_acc16 (s : State) (r : RefusalReason) : (s.refuse r).acc16 = s.acc16 := rfl
@[simp] theorem State.refuse_ids (s : State) (r : RefusalReason) : (s.refuse r).ids = s.ids := rfl
@[simp] theorem State.refuse_idsWritten (s : State) (r : RefusalReason) : (s.refuse r).idsWritten = s.idsWritten := rfl
@[simp] theorem State.refuse_activity (s : State) (r : RefusalReason) : (s.refuse r).activity = s.activity := rfl
@[simp] theorem State.refuse_host (s : State) (r : RefusalReason) : (s.refuse r).host = s.host := rfl
@[simp] theorem State.refuse_outputs (s : State) (r : RefusalReason) : (s.refuse r).outputs = s.outputs ++ [Output.refused r] := rfl
@[simp] theorem State.refuse_draws (s : State) (r : RefusalReason) : (s.refuse r).draws = s.draws := rfl
@[simp] theorem State.refuse_bufMax (s : State) (r : RefusalReason) : (s.refuse r).bufMax = s.bufMax := rfl

@[simp] theorem State.emit_acc8 (s : State) (h : HardHeader) (sh : SoftMessage) (raw : List Byte) (n : Resume) : (s.emit h sh raw n).acc8 = s.acc8 := rfl
@[simp] theorem State.emit_acc16 (s : State) (h : HardHeader) (sh : SoftMessage) (raw : List Byte) (n : Resume) : (s.emit h sh raw n).acc16 = s.acc16 := rfl
@[simp] theorem State.emit_ids (s : State) (h : HardHeader) (sh : SoftMessage) (raw : List Byte) (n : Resume) : (s.emit h sh raw n).ids = s.ids := rfl
@[simp] theorem State.emit_idsWritten (s : State) (h : HardHeader) (sh : SoftMessage) (raw : List Byte) (n : Resume) : (s.emit h sh raw n).idsWritten = s.idsWritten := rfl
@[simp] theorem State.emit_activity (s : State) (h : HardHeader) (sh : SoftMessage) (raw : List Byte) (n : Resume) : (s.emit h sh raw n).activity = .handling n := rfl
@[simp] theorem State.emit_host (s : State) (h : HardHeader) (sh : SoftMessage) (raw : List Byte) (n : Resume) : (s.emit h sh raw n).host = s.host := rfl
@[simp] theorem State.emit_outputs (s : State) (h : HardHeader) (sh : SoftMessage) (raw : List Byte) (n : Resume) : (s.emit h sh raw n).outputs = s.outputs ++ [Output.msg h sh raw] := rfl
@[simp] theorem State.emit_draws (s : State) (h : HardHeader) (sh : SoftMessage) (raw : List Byte) (n : Resume) : (s.emit h sh raw n).draws = s.draws := rfl
@[simp] theorem State.emit_bufMax (s : State) (h : HardHeader) (sh : SoftMessage) (raw : List Byte) (n : Resume) : (s.emit h sh raw n).bufMax = s.bufMax := rfl

@[simp] theorem State.setAcc8_acc8 (s : State) (v : Byte) : (s.setAcc8 v).acc8 = v := rfl
@[simp] theorem State.setAcc8_acc16 (s : State) (v : Byte) : (s.setAcc8 v).acc16 = s.acc16 := rfl
@[simp] theorem State.setAcc8_ids (s : State) (v : Byte) : (s.setAcc8 v).ids = s.ids := rfl
@[simp] theorem State.setAcc8_idsWritten (s : State) (v : Byte) : (s.setAcc8 v).idsWritten = s.idsWritten := rfl
@[simp] theorem State.setAcc8_activity (s : State) (v : Byte) : (s.setAcc8 v).activity = s.activity := rfl
@[simp] theorem State.setAcc8_host (s : State) (v : Byte) : (s.setAcc8 v).host = s.host := rfl
@[simp] theorem State.setAcc8_outputs (s : State) (v : Byte) : (s.setAcc8 v).outputs = s.outputs := rfl
@[simp] theorem State.setAcc8_draws (s : State) (v : Byte) : (s.setAcc8 v).draws = s.draws := rfl
@[simp] theorem State.setAcc8_bufMax (s : State) (v : Byte) : (s.setAcc8 v).bufMax = s.bufMax := rfl

@[simp] theorem State.setAcc16_acc8 (s : State) (v : Half) : (s.setAcc16 v).acc8 = s.acc8 := rfl
@[simp] theorem State.setAcc16_acc16 (s : State) (v : Half) : (s.setAcc16 v).acc16 = v := rfl
@[simp] theorem State.setAcc16_ids (s : State) (v : Half) : (s.setAcc16 v).ids = s.ids := rfl
@[simp] theorem State.setAcc16_idsWritten (s : State) (v : Half) : (s.setAcc16 v).idsWritten = s.idsWritten := rfl
@[simp] theorem State.setAcc16_activity (s : State) (v : Half) : (s.setAcc16 v).activity = s.activity := rfl
@[simp] theorem State.setAcc16_host (s : State) (v : Half) : (s.setAcc16 v).host = s.host := rfl
@[simp] theorem State.setAcc16_outputs (s : State) (v : Half) : (s.setAcc16 v).outputs = s.outputs := rfl
@[simp] theorem State.setAcc16_draws (s : State) (v : Half) : (s.setAcc16 v).draws = s.draws := rfl
@[simp] theorem State.setAcc16_bufMax (s : State) (v : Half) : (s.setAcc16 v).bufMax = s.bufMax := rfl

@[simp] theorem State.spoilAcc8_acc8 (s : State) : (s.spoilAcc8).acc8 = Config.freeAcc8 s.draws := rfl
@[simp] theorem State.spoilAcc8_acc16 (s : State) : (s.spoilAcc8).acc16 = s.acc16 := rfl
@[simp] theorem State.spoilAcc8_ids (s : State) : (s.spoilAcc8).ids = s.ids := rfl
@[simp] theorem State.spoilAcc8_idsWritten (s : State) : (s.spoilAcc8).idsWritten = s.idsWritten := rfl
@[simp] theorem State.spoilAcc8_activity (s : State) : (s.spoilAcc8).activity = s.activity := rfl
@[simp] theorem State.spoilAcc8_host (s : State) : (s.spoilAcc8).host = s.host := rfl
@[simp] theorem State.spoilAcc8_outputs (s : State) : (s.spoilAcc8).outputs = s.outputs := rfl
@[simp] theorem State.spoilAcc8_draws (s : State) : (s.spoilAcc8).draws = s.draws + 1 := rfl
@[simp] theorem State.spoilAcc8_bufMax (s : State) : (s.spoilAcc8).bufMax = s.bufMax := rfl

@[simp] theorem State.spoilAcc16_acc8 (s : State) : (s.spoilAcc16).acc8 = s.acc8 := rfl
@[simp] theorem State.spoilAcc16_acc16 (s : State) : (s.spoilAcc16).acc16 = Config.freeAcc16 s.draws := rfl
@[simp] theorem State.spoilAcc16_ids (s : State) : (s.spoilAcc16).ids = s.ids := rfl
@[simp] theorem State.spoilAcc16_idsWritten (s : State) : (s.spoilAcc16).idsWritten = s.idsWritten := rfl
@[simp] theorem State.spoilAcc16_activity (s : State) : (s.spoilAcc16).activity = s.activity := rfl
@[simp] theorem State.spoilAcc16_host (s : State) : (s.spoilAcc16).host = s.host := rfl
@[simp] theorem State.spoilAcc16_outputs (s : State) : (s.spoilAcc16).outputs = s.outputs := rfl
@[simp] theorem State.spoilAcc16_draws (s : State) : (s.spoilAcc16).draws = s.draws + 1 := rfl
@[simp] theorem State.spoilAcc16_bufMax (s : State) : (s.spoilAcc16).bufMax = s.bufMax := rfl

@[simp] theorem State.writeIds_acc8 (s : State) (i : Ids) : (s.writeIds i).acc8 = s.acc8 := rfl
@[simp] theorem State.writeIds_acc16 (s : State) (i : Ids) : (s.writeIds i).acc16 = s.acc16 := rfl
@[simp] theorem State.writeIds_ids (s : State) (i : Ids) : (s.writeIds i).ids = i := rfl
@[simp] theorem State.writeIds_idsWritten (s : State) (i : Ids) : (s.writeIds i).idsWritten = true := rfl
@[simp] theorem State.writeIds_activity (s : State) (i : Ids) : (s.writeIds i).activity = s.activity := rfl
@[simp] theorem State.writeIds_host (s : State) (i : Ids) : (s.writeIds i).host = s.host := rfl
@[simp] theorem State.writeIds_outputs (s : State) (i : Ids) : (s.writeIds i).outputs = s.outputs := rfl
@[simp] theorem State.writeIds_draws (s : State) (i : Ids) : (s.writeIds i).draws = s.draws := rfl
@[simp] theorem State.writeIds_bufMax (s : State) (i : Ids) : (s.writeIds i).bufMax = s.bufMax := rfl

@[simp] theorem State.assertReset_acc8 (s : State) : (s.assertReset).acc8 = 0x00#8 := rfl
@[simp] theorem State.assertReset_acc16 (s : State) : (s.assertReset).acc16 = 0x0000#16 := rfl
@[simp] theorem State.assertReset_ids (s : State) : (s.assertReset).ids = State.reset.ids := rfl
@[simp] theorem State.assertReset_idsWritten (s : State) : (s.assertReset).idsWritten = false := rfl
@[simp] theorem State.assertReset_activity (s : State) : (s.assertReset).activity = .idle := rfl
@[simp] theorem State.assertReset_host (s : State) : (s.assertReset).host = s.host := rfl
@[simp] theorem State.assertReset_outputs (s : State) : (s.assertReset).outputs = s.outputs := rfl
@[simp] theorem State.assertReset_draws (s : State) : (s.assertReset).draws = s.draws := rfl
@[simp] theorem State.assertReset_bufMax (s : State) : (s.assertReset).bufMax = s.bufMax := rfl

end Sys2Proof.Machine
end

