-- ==== Sys2Proof/Laws/Ops.lean ====
section
/-! SUPPORT. What the shared operations can do: admission, `perform`, the end of an operation, a rejected request. -/

namespace Sys2Proof.Machine

theorem State.busy_eq_false_iff (s : State) : s.busy = false ↔ s.activity = .idle := by
  simp [State.busy]

theorem State.tooLong_eq_false_iff (s : State) (len : Nat) :
    s.tooLong len = false ↔ ∀ max, s.bufMax = some max → len ≤ max := by
  unfold State.tooLong
  cases h : s.bufMax <;> simp

theorem State.refusal_of_admits {s : State} {r : Bool} {len : Nat} (h : s.Admits r len) : s.refusal r len = none := by
  have hb := (State.busy_eq_false_iff s).2 h.idle
  have ht := (State.tooLong_eq_false_iff s len).2 h.fits
  have hi : (r && !s.idsWritten) = false := by
    cases r
    · rfl
    · simp [h.ids rfl]
  simp [State.refusal, hb, ht, hi]

theorem State.admits_of_refusal {s : State} {r : Bool} {len : Nat} (h : s.refusal r len = none) : s.Admits r len := by
  unfold State.refusal at h
  split at h
  · cases h
  · rename_i hb
    split at h <;> cases h
    rename_i h1 h2
    exact ⟨(State.busy_eq_false_iff s).1 (by simpa using hb), by simpa using h1, (State.tooLong_eq_false_iff s len).1 h2⟩

theorem State.perform_of_admits {s : State} {r : Bool} {len : Nat} (h : s.Admits r len) (t : State) :
    s.perform r len t = .next t := by
  simp [State.perform, State.refusal_of_admits h]

/-- Everything `perform` can do. -/
theorem State.perform_cases (s : State) (r : Bool) (len : Nat) (t : State) :
    (s.Admits r len ∧ s.perform r len t = .next t) ∨
    ∃ why, s.refusal r len = some why ∧ s.perform r len t = .next (s.refuse why) := by
  cases h : s.refusal r len with
  | none => exact .inl ⟨State.admits_of_refusal h, by simp [State.perform, h]⟩
  | some why => exact .inr ⟨why, rfl, by simp [State.perform, h]⟩

theorem State.admits_plain {s : State} (h : s.activity = .idle) : s.Admits false 0 :=
  ⟨h, by simp, fun _ _ => Nat.zero_le _⟩

theorem State.admits_ids {s : State} (h : s.activity = .idle) (hi : s.idsWritten = true) : s.Admits true 0 :=
  ⟨h, fun _ => hi, fun _ _ => Nat.zero_le _⟩

theorem Scan.min_le_eight (sc : Scan) : sc.min ≤ 8 := by
  unfold Scan.min; split <;> omega

/-- Where an operation that was performed or refused can be. -/
theorem State.perform_next {s t d : State} {r len} (h : s.perform r len d = .next t) : (s.Admits r len ∧ t = d) ∨ ∃ w, s.refusal r len = some w ∧ t = s.refuse w := by
  rcases s.perform_cases r len d with ⟨ha, he⟩ | ⟨w, hw, he⟩
  · rw [he] at h; cases h; exact .inl ⟨ha, rfl⟩
  · rw [he] at h; cases h; exact .inr ⟨w, hw, rfl⟩

theorem State.finish_of_idle {s : State} (h : s.activity = .idle) (v : Value) :
    s.finish v = { s with outputs := s.outputs ++ [Output.value v] } := by
  cases s; cases h; rfl

theorem State.raise_of_idle {s : State} (h : s.activity = .idle) (k : ErrorKind) :
    s.raise k = { s with outputs := s.outputs ++ [Output.error k] } := by
  cases s; cases h; rfl

theorem State.rejectRequest_next {s t : State} {e} (h : s.rejectRequest e = .next t) : ∃ r, t = s.refuse r ∧ ((r = .busy ∧ s.activity ≠ .idle) ∨ (r = .unknownOperation ∧ s.activity = .idle ∧ ∃ n, e = .unknownOperation n)) := by
  unfold State.rejectRequest at h
  split at h
  · rename_i hb; cases h
    refine ⟨_, rfl, .inl ⟨rfl, fun ha => ?_⟩⟩
    rw [(State.busy_eq_false_iff s).2 ha] at hb; cases hb
  · rename_i hb
    have hb := (State.busy_eq_false_iff s).1 (by simpa using hb)
    cases e <;> cases h
    exact ⟨_, rfl, .inr ⟨rfl, hb, _, rfl⟩⟩

end Sys2Proof.Machine
end

