-- ==== Sys2Proof/Laws/PerInstr.lean ====
section
/-! SUPPORT. Families of statements made of every instruction, one lemma per constructor. -/

namespace Sys2Proof.Laws

/-- The first byte of an encoding tells what it is: `START_BYTE` for a frame (30_encoding R51), `op` for an operation (R74). -/
def HeadByte.Statement (i : Instr) : Prop :=
  (encode i).head? = some (match i.space with | .buffer => startByte | .command => Machine.opNumber i)

theorem HeadByte.readReq : ∀ f, HeadByte.Statement (.readReq f) := fun _ => rfl
theorem HeadByte.readResp : ∀ f, HeadByte.Statement (.readResp f) := fun _ => rfl
theorem HeadByte.writePush : ∀ f, HeadByte.Statement (.writePush f) := fun _ => rfl
theorem HeadByte.writeAck : ∀ f, HeadByte.Statement (.writeAck f) := fun _ => rfl
theorem HeadByte.frameOther : ∀ fn f, HeadByte.Statement (.frameOther fn f) := fun _ _ => rfl
theorem HeadByte.crc8Clr : HeadByte.Statement .crc8Clr := rfl
theorem HeadByte.crc8Byte : ∀ b, HeadByte.Statement (.crc8Byte b) := fun _ => rfl
theorem HeadByte.crc8Read : HeadByte.Statement .crc8Read := rfl
theorem HeadByte.crc8Msg : ∀ bytes, HeadByte.Statement (.crc8Msg bytes) := fun _ => rfl
theorem HeadByte.crc16Clr : HeadByte.Statement .crc16Clr := rfl
theorem HeadByte.crc16Byte : ∀ b, HeadByte.Statement (.crc16Byte b) := fun _ => rfl
theorem HeadByte.crc16Read : HeadByte.Statement .crc16Read := rfl
theorem HeadByte.crc16Msg : ∀ bytes, HeadByte.Statement (.crc16Msg bytes) := fun _ => rfl
theorem HeadByte.parseHard : ∀ buf, HeadByte.Statement (.parseHard buf) := fun _ => rfl
theorem HeadByte.validateHard : ∀ h, HeadByte.Statement (.validateHard h) := fun _ => rfl
theorem HeadByte.parseSoft : ∀ p n, HeadByte.Statement (.parseSoft p n) := fun _ _ => rfl
theorem HeadByte.validateSoft : ∀ h m, HeadByte.Statement (.validateSoft h m) := fun _ _ => rfl
theorem HeadByte.processOne : ∀ buffer p, HeadByte.Statement (.processOne buffer p) := fun _ _ => rfl
theorem HeadByte.processAll : ∀ buffer p, HeadByte.Statement (.processAll buffer p) := fun _ _ => rfl
theorem HeadByte.buildRead : ∀ d c dl cl s n, HeadByte.Statement (.buildRead d c dl cl s n) := fun _ _ _ _ _ _ => rfl
theorem HeadByte.buildWrite : ∀ d c dl cl s n values, HeadByte.Statement (.buildWrite d c dl cl s n values) := fun _ _ _ _ _ _ _ => rfl
theorem HeadByte.setIds : ∀ c d cl dl, HeadByte.Statement (.setIds c d cl dl) := fun _ _ _ _ => rfl

end Sys2Proof.Laws
end

