-- ==== Sys2Proof/Laws/Step.lean ====
section
/-! SUPPORT. What a step can be, said once: the inversion lemma `step_cases`, which names every way a step goes on. -/

namespace Sys2Proof.Machine

/-- What a fetched thing comes to. -/
def Fetched.outcome : Fetched → StepOutcome
  | .run i t => exec i t
  | .answer o => o

theorem step_eq (s : State) : step s = s.fetch.outcome := by
  unfold step Fetched.outcome; cases s.fetch <;> rfl

/-- A request that decodes is an operation, never a frame. -/
theorem decode_command_space {bytes : List Byte} {i : Instr} (h : decode .command bytes = .ok i) : i.space = .command := by
  unfold decode decodeRequest at h
  dsimp only at h
  split at h
  · cases h
  · unfold decodeOperands at h
    repeat' split at h
    all_goals first | (cases h; rfl) | cases h

/-- A step at which the host asks nothing is the block's own move. -/
theorem step_of_unasked {s : State} (h : s.Unasked) : step s = ({ s with host := s.host.tail } : State).ownMove.outcome := by
  rw [step_eq]; unfold State.fetch
  rcases h with h | ⟨later, h | ⟨h, hr⟩⟩
  · have : ({ s with host := s.host.tail } : State) = s := by cases s; cases h; rfl
    rw [this, h]
  · rw [h]; rfl
  · rw [h]
    simp only [State.respond, List.tail_cons]
    cases ha : s.activity with
    | handling r => exact absurd ha (hr r)
    | _ => rfl

/-- Bytes at the cursor that match no frame row are one turn of the loop. -/
theorem step_of_noRow {s : State} {sc : Scan} {e : DecodeError} (ha : s.activity = .scanning sc) (hu : s.Unasked)
    (hd : decode .buffer sc.rest = .error e) :
    step s = .next (({ s with host := s.host.tail } : State).turn sc sc.rest) := by
  rw [step_of_unasked hu]; unfold State.ownMove; simp only [ha, hd]; rfl

/-- The ways the block's own move can go: `t` is where it ends. -/
inductive OwnMove (s t : State) : Prop
  /-- Nothing to do. -/
  | rest (h : ∀ sc, s.activity ≠ .scanning sc) (ht : t = s)
  /-- A frame row at the cursor. -/
  | frame (sc : Scan) (i : Instr) (h : s.activity = .scanning sc) (hd : decode .buffer sc.rest = .ok i)
      (ht : exec i s = .next t)
  /-- Bytes at the cursor that match no frame row. -/
  | noRow (sc : Scan) (e : DecodeError) (h : s.activity = .scanning sc) (hd : decode .buffer sc.rest = .error e)
      (ht : t = s.turn sc sc.rest)

theorem ownMove_cases {s t : State} (h : s.ownMove.outcome = .next t) : OwnMove s t := by
  unfold State.ownMove at h
  cases ha : s.activity with
  | idle => simp only [ha] at h; cases h; exact .rest (by simp [ha]) rfl
  | handling r => simp only [ha] at h; cases h; exact .rest (by simp [ha]) rfl
  | scanning sc =>
    simp only [ha] at h
    cases hd : decode .buffer sc.rest with
    | ok i => rw [hd] at h; exact .frame sc i ha hd h
    | error e => rw [hd] at h; cases h; exact .noRow sc e ha hd rfl

/-- Everything a step that goes on can be. -/
inductive StepCase (s t : State) : Prop
  /-- The host asks nothing: the block's own move. -/
  | own (h : s.Unasked) (ht : OwnMove { s with host := s.host.tail } t)
  /-- The host has handled the MSG. -/
  | handled (r : Resume) (later : List HostAct) (ha : s.activity = .handling r) (hh : s.host = .ack :: later)
      (ht : t = { s with host := later }.resume r)
  /-- A request that is an instruction. -/
  | request (bytes : List Byte) (later : List HostAct) (i : Instr) (hh : s.host = .request bytes :: later)
      (hd : decode .command bytes = .ok i) (ht : exec i { s with host := later } = .next t)
  /-- A request that is none. -/
  | rejected (bytes : List Byte) (later : List HostAct) (e : DecodeError) (hh : s.host = .request bytes :: later)
      (hd : decode .command bytes = .error e) (ht : { s with host := later }.rejectRequest e = .next t)
  /-- The reset input. -/
  | reset (later : List HostAct) (hh : s.host = .reset :: later) (ht : t = { s with host := later }.assertReset)

theorem step_cases {s t : State} (h : step s = .next t) : StepCase s t := by
  rw [step_eq] at h
  unfold State.fetch at h
  cases hh : s.host with
  | nil =>
    rw [hh] at h
    refine .own (.inl hh) ?_
    rw [hh, show ({ s with host := List.tail [] } : State) = s by cases s; cases hh; rfl]
    exact ownMove_cases h
  | cons a later =>
    rw [hh] at h
    dsimp only at h
    cases a with
    | idle =>
      refine .own (.inr ⟨later, .inl hh⟩) ?_
      rw [hh]; exact ownMove_cases h
    | ack =>
      unfold State.respond at h
      cases ha : s.activity with
      | handling r =>
        simp only [ha] at h; cases h
        exact .handled r later ha hh (by cases s; cases ha; rfl)
      | idle =>
        refine .own (.inr ⟨later, .inr ⟨hh, by simp [ha]⟩⟩) ?_
        simp only [ha] at h
        rw [hh, show ({ s with host := List.tail (.ack :: later) } : State) = { s with activity := .idle, host := later } by
          cases s; cases ha; rfl]
        exact ownMove_cases h
      | scanning sc =>
        refine .own (.inr ⟨later, .inr ⟨hh, by simp [ha]⟩⟩) ?_
        simp only [ha] at h
        rw [hh, show ({ s with host := List.tail (.ack :: later) } : State) =
          { s with activity := .scanning sc, host := later } by cases s; cases ha; rfl]
        exact ownMove_cases h
    | request bytes =>
      unfold State.respond at h
      dsimp only at h
      cases hd : decode .command bytes with
      | ok i => rw [hd] at h; exact .request bytes later i hh hd h
      | error e => rw [hd] at h; exact .rejected bytes later e hh hd h
    | reset => cases h; exact .reset later hh rfl

end Sys2Proof.Machine
end

