-- ==== Sys2Proof/Tests/Slice0.lean ====
section
/-! SUPPORT. Checks of the model against the spec's own vectors (95_test_vectors), and a witness for the hypotheses of each
statement. F1 to F7 are the frames 95 names so. -/

namespace Sys2Proof.Tests

open Sys2Proof Sys2Proof.Machine

/-! ## States and frames -/

/-- After SET_IDS(1, 2, 1, 2) (95 V20). -/
def configured : State := { State.reset with ids := ⟨1#8, 2#8, 1#16, 2#16⟩, idsWritten := true }

/-- A running PROCESS_ALL at the start of a buffer. -/
def scanningOn (buffer : List Byte) (allowPartial : Bool) : State :=
  { configured with activity := .scanning ⟨buffer, 0, allowPartial⟩ }

/-- The last thing a step delivers. -/
def lastOf (o : StepOutcome) : Option Output := (outputsOf o).getLast?

/-- F2 (95 V11). -/
def f2 : List Byte :=
  [0x69#8, 0x02#8, 0x01#8, 0x84#8, 0x00#8, 0x00#8, 0x0E#8, 0x89#8, 0x02#8, 0x00#8, 0x01#8, 0x00#8, 0x60#8, 0x80#8, 0x00#8,
   0x02#8, 0x30#8, 0x01#8, 0x01#8, 0x00#8, 0x23#8, 0x85#8]

/-- F3 (95 P3). -/
def f3 : List Byte :=
  [0x69#8, 0x01#8, 0x02#8, 0x84#8, 0x00#8, 0x00#8, 0x10#8, 0x01#8, 0x01#8, 0x00#8, 0x02#8, 0x00#8, 0x50#8, 0x80#8, 0x00#8,
   0x04#8, 0x78#8, 0x00#8, 0x34#8, 0x12#8, 0x85#8, 0xFF#8, 0x9C#8, 0x2B#8]

/-- F4 (95 P3). -/
def f4 : List Byte :=
  [0x69#8, 0x01#8, 0x02#8, 0x84#8, 0x00#8, 0x00#8, 0x0C#8, 0x84#8, 0x01#8, 0x00#8, 0x02#8, 0x00#8, 0x70#8, 0x80#8, 0x00#8,
   0x02#8, 0x30#8, 0x01#8, 0xFC#8, 0x7B#8]

/-- F1 with function code 0x41 (95 V22 row 31). -/
def f41 : List Byte :=
  [0x69#8, 0x02#8, 0x01#8, 0x84#8, 0x00#8, 0x00#8, 0x0C#8, 0xF6#8, 0x02#8, 0x00#8, 0x01#8, 0x00#8, 0x41#8, 0x80#8, 0x00#8,
   0x5C#8, 0x78#8, 0x00#8, 0x3E#8, 0x66#8]

/-- F1 with soft byte 6 = 01, CRC-16 recomputed (95 V22 row 26). -/
def softConst01 : List Byte :=
  [0x69#8, 0x02#8, 0x01#8, 0x84#8, 0x00#8, 0x00#8, 0x0C#8, 0xF6#8, 0x02#8, 0x00#8, 0x01#8, 0x00#8, 0x40#8, 0x80#8, 0x01#8,
   0x5C#8, 0x78#8, 0x00#8, 0x0D#8, 0x72#8]

/-- F1 as a frame instruction. -/
def f1Frame : Frame := ⟨2#8, 1#8, 12#8, 0xF6#8, 2#16, 1#16, .whole 92#8 120#16 [] 0x7BC6#16⟩

/-- F3 as a frame instruction. -/
def f3Frame : Frame := ⟨1#8, 2#8, 16#8, 0x01#8, 1#16, 2#16, .whole 4#8 120#16 [0x34#8, 0x12#8, 0x85#8, 0xFF#8] 0x9C2B#16⟩

/-- F2 as a frame instruction. -/
def f2Frame : Frame := ⟨2#8, 1#8, 14#8, 0x89#8, 2#16, 1#16, .whole 2#8 304#16 [0x01#8, 0x00#8] 0x2385#16⟩

/-- F4 as a frame instruction. -/
def f4Frame : Frame := ⟨1#8, 2#8, 12#8, 0x84#8, 1#16, 2#16, .whole 2#8 304#16 [] 0xFC7B#16⟩

/-- F1 with function code 0x41 as a frame instruction. -/
def f41Frame : Frame := ⟨2#8, 1#8, 12#8, 0xF6#8, 2#16, 1#16, .whole 92#8 120#16 [] 0x3E66#16⟩

/-! ## WellFormed refuses -/

/-- R54: a whole message whose `payload_length` is not `12 + len(rest_message)`. -/
theorem test_wellFormed_refuses_wrong_length :
    (Instr.readReq { f1Frame with payloadLength := 13#8 }).wellFormed = false := by decide

/-- R52: more bytes than the frame has. -/
theorem test_wellFormed_refuses_long_cut :
    (Instr.readReq { f1Frame with payloadLength := 8#8, tail := .cut [0#8, 0#8] }).wellFormed = false := by decide

/-- A soft message that is all there is not cut. -/
theorem test_wellFormed_refuses_whole_as_cut :
    (Instr.readReq { f1Frame with tail := .cut [0x5C#8, 0x78#8, 0x00#8, 0x7B#8, 0xC6#8] }).wellFormed = false := by decide

/-- R75: FRAME_OTHER is the row of the other function codes. -/
theorem test_wellFormed_refuses_known_code : (Instr.frameOther 0x50#8 f1Frame).wellFormed = false := by decide

theorem test_wellFormed_accepts_f1 : (Instr.readReq f1Frame).wellFormed = true := by decide

/-! ## Decode: words written out from the spec -/

/-- R74: CRC8_BYTE, the upper three bits of its `op` byte set. -/
theorem test_decode_crc8Byte : decode .command [0xE1#8, 0x69#8] = .ok (.crc8Byte 0x69#8) := by decide

/-- R74, R16: VALIDATE_HARD of F1's header. -/
theorem test_decode_validateHard :
    decode .command [0x09#8, 0x69#8, 0x02#8, 0x01#8, 0x84#8, 0x00#8, 0x00#8, 0x0C#8, 0xF6#8, 0xF6#8] =
      .ok (.validateHard ⟨0x69#8, 2#8, 1#8, 0x000084#24, 12#8, 0xF6#8, 0xF6#8⟩) := by decide

/-- R74, R131: BUILD_WRITE(2, 1, 2, 1, 304, 2, [0x0001]). -/
theorem test_decode_buildWrite :
    decode .command [0x0F#8, 0x02#8, 0x01#8, 0x02#8, 0x00#8, 0x01#8, 0x00#8, 0x30#8, 0x01#8, 0x02#8, 0x01#8, 0x00#8] =
      .ok (.buildWrite 2#8 1#8 2#16 1#16 304#16 2#8 [0x0001#16]) := by decide

/-- R74, R150: SET_IDS(1, 2, 0x0304, 0x0102). -/
theorem test_decode_setIds :
    decode .command [0x10#8, 0x01#8, 0x02#8, 0x04#8, 0x03#8, 0x02#8, 0x01#8] =
      .ok (.setIds 1#8 2#8 0x0304#16 0x0102#16) := by decide

/-- R74: an operand byte is missing. -/
theorem test_decode_operands_missing : decode .command [0x10#8, 0x01#8] = .error (.operandsMissing 0x10) := by decide

/-- R75: F1 with `85` for its first constant byte matches no row. -/
theorem test_decode_no_row :
    decode .buffer (scenarioFrame.set 3 0x85#8) = .error .noFrameRow := by decide +kernel

/-- R75: a frame needs fifteen bytes to match a row. -/
theorem test_decode_short : decode .buffer (scenarioFrame.take 14) = .error .frameTooShort := by decide +kernel

/-- The opcode table's READ_REQ word (all free bits 0): a READ_REQ whose `payload_length` is 0. -/
theorem test_tableWord_readReq :
    decodeTableWord 120 0x008040000000000000000084000069 =
      some (.readReq ⟨0#8, 0#8, 0#8, 0#8, 0#16, 0#16, .cut []⟩) := by decide +kernel

/-- The opcode table's CRC16_MSG word, operand bytes 0. -/
theorem test_tableWord_crc16Msg : decodeTableWord 8 0x07 = some (.crc16Msg (List.replicate 23 0x00#8)) := by decide +kernel

/-! ## One step of each instruction -/

/-- R86. -/
theorem test_crc8Clr : (∃ t, exec .crc8Clr { State.reset with acc8 := 0x55#8, acc16 := 0x1234#16 } = .next t ∧
    t.acc8 = 0x00#8 ∧ t.acc16 = 0x1234#16 ∧ t.outputs = [.value .none]) := ⟨_, rfl, rfl, rfl, rfl⟩

/-- 95 V17: `crc8_step(FF, 00)` = F9. -/
theorem test_crc8Byte : ∃ t, exec (.crc8Byte 0x00#8) { State.reset with acc8 := 0xFF#8 } = .next t ∧ t.acc8 = 0xF9#8 :=
  ⟨_, rfl, by decide +kernel⟩

/-- 95 V17: `crc8_step(FF, FF)` = 00. -/
theorem test_crc8Byte_clears : ∃ t, exec (.crc8Byte 0xFF#8) { State.reset with acc8 := 0xFF#8 } = .next t ∧ t.acc8 = 0x00#8 :=
  ⟨_, rfl, by decide +kernel⟩

/-- R88. -/
theorem test_crc8Read : lastOf (exec .crc8Read { State.reset with acc8 := 0xF6#8, acc16 := 0x7BC6#16 }) =
    some (.value (.byte 0xF6#8)) := rfl

/-- 95 V8: "123456789". -/
theorem test_crc8Msg : lastOf (exec (.crc8Msg [0x31#8, 0x32#8, 0x33#8, 0x34#8, 0x35#8, 0x36#8, 0x37#8, 0x38#8, 0x39#8])
    { State.reset with acc8 := 0x77#8 }) = some (.value (.byte 0xBC#8)) := by decide +kernel

/-- R89. -/
theorem test_crc16Clr : (∃ t, exec .crc16Clr { State.reset with acc8 := 0x55#8, acc16 := 0x1234#16 } = .next t ∧
    t.acc8 = 0x55#8 ∧ t.acc16 = 0x0000#16) := ⟨_, rfl, rfl, rfl⟩

/-- 95 V17: `crc16_step(FFFF, 00)` = E1F0. -/
theorem test_crc16Byte : ∃ t, exec (.crc16Byte 0x00#8) { State.reset with acc16 := 0xFFFF#16 } = .next t ∧ t.acc16 = 0xE1F0#16 :=
  ⟨_, rfl, by decide +kernel⟩

/-- 95 V17: `crc16_step(FFFF, FF)` = FF00. -/
theorem test_crc16Byte_high : ∃ t, exec (.crc16Byte 0xFF#8) { State.reset with acc16 := 0xFFFF#16 } = .next t ∧
    t.acc16 = 0xFF00#16 := ⟨_, rfl, by decide +kernel⟩

/-- R91. -/
theorem test_crc16Read : lastOf (exec .crc16Read { State.reset with acc8 := 0xF6#8, acc16 := 0x7BC6#16 }) =
    some (.value (.half 0x7BC6#16)) := rfl

/-- 95 V8: "123456789". -/
theorem test_crc16Msg : lastOf (exec (.crc16Msg [0x31#8, 0x32#8, 0x33#8, 0x34#8, 0x35#8, 0x36#8, 0x37#8, 0x38#8, 0x39#8])
    { State.reset with acc16 := 0x7777#16 }) = some (.value (.half 0x31C3#16)) := by decide +kernel

/-- 95 V21. -/
theorem test_parseHard : lastOf (exec (.parseHard f3) State.reset) =
    some (.value (.header ⟨0x69#8, 1#8, 2#8, 0x000084#24, 16#8, 0x01#8, 0x01#8⟩)) := by decide +kernel

/-- R100: seven bytes. -/
theorem test_parseHard_short : lastOf (exec (.parseHard (f3.take 7)) State.reset) = some (.error .frameTooShort) := by
  decide +kernel

/-- 95 V22 row 16: membership is tested before collision. -/
theorem test_validateHard : lastOf (exec (.validateHard ⟨0x69#8, 3#8, 3#8, 0x000084#24, 12#8, 0xD7#8, 0xD7#8⟩) configured) =
    some (.error .invalidHardAddress) := by decide +kernel

/-- 95 V22 row 8: the checksum is tested before the constant. -/
theorem test_validateHard_order :
    lastOf (exec (.validateHard ⟨0x69#8, 2#8, 1#8, 0x000085#24, 12#8, 0xF6#8, 0xB3#8⟩) configured) =
      some (.error .invalidHardChecksum) := by decide +kernel

/-- 95 V21. -/
theorem test_parseSoft : lastOf (exec (.parseSoft (f3.drop 8) 16#8) State.reset) =
    some (.value (.message ⟨1#16, 2#16, 0x50#8, 0x0080#16, 4#8, 120#16, [0x34#8, 0x12#8, 0x85#8, 0xFF#8], 0x9C2B#16, 0x9C2B#16⟩)) := by
  decide +kernel

/-- R102: eleven bytes of a declared eleven. -/
theorem test_parseSoft_short : lastOf (exec (.parseSoft (List.replicate 11 0#8) 11#8) State.reset) =
    some (.error .softMessageTooShort) := by decide +kernel

/-- 95 V21: a frame from the device. -/
theorem test_validateSoft : lastOf (exec (.validateSoft (headerAt f3) (messageAt f3)) configured) = some (.value .ok) := by
  decide +kernel

/-- 95 V22 row 29: all sixteen bits of an address are compared. -/
theorem test_validateSoft_address : lastOf (exec (.validateSoft (headerAt scenarioFrame)
    { messageAt scenarioFrame with toLogical := 0x0102#16 }) configured) = some (.error .invalidSoftAddress) := by decide +kernel

/-- 95 V22 row 4: one byte after the frame is not looked at. -/
theorem test_processOne : lastOf (exec (.processOne (scenarioFrame ++ [0xAA#8]) false) configured) =
    some (.msg (headerAt scenarioFrame) (messageAt scenarioFrame) scenarioFrame) := by decide +kernel

/-- 95 V22 row 17, partial. -/
theorem test_processOne_waits : lastOf (exec (.processOne ((scenarioFrame.set 6 0x0D#8).set 7 0x23#8) true) configured) =
    some (.value (.consumed 0 ((scenarioFrame.set 6 0x0D#8).set 7 0x23#8))) := by decide +kernel

/-- R106: eight bytes in partial-tolerant mode come back unparsed (95 V24). -/
theorem test_processAll : lastOf (exec (.processAll (List.replicate 8 0#8) true) configured) =
    some (.value (.remaining (List.replicate 8 0#8))) := by decide +kernel

/-- 95 P3's last two frames and its tail. -/
theorem test_processAll_frames : processAllOutputs configured.ids (f2 ++ f4 ++ [0x69#8, 0x01#8, 0x02#8]) true =
    [.msg (headerAt f2) (messageAt f2) f2, .msg (headerAt f4) (messageAt f4) f4,
     .value (.remaining [0x69#8, 0x01#8, 0x02#8])] := by decide +kernel

/-- 95 V13. -/
theorem test_buildRead : lastOf (exec (.buildRead 2#8 1#8 0x0102#16 0x0304#16 0xBEEF#16 0xFF#8) State.reset) =
    some (.value (.frame [0x69#8, 0x02#8, 0x01#8, 0x84#8, 0x00#8, 0x00#8, 0x0C#8, 0xF6#8, 0x02#8, 0x01#8, 0x04#8, 0x03#8, 0x40#8,
      0x80#8, 0x00#8, 0xFF#8, 0xEF#8, 0xBE#8, 0x23#8, 0x7C#8])) := by decide +kernel

/-- 95 V12. -/
theorem test_buildWrite : lastOf (exec (.buildWrite 2#8 1#8 2#16 1#16 0x0130#16 6#8 [0x0001#16, 0xABCD#16, 0x8000#16]) State.reset) =
    some (.value (.frame [0x69#8, 0x02#8, 0x01#8, 0x84#8, 0x00#8, 0x00#8, 0x12#8, 0x0C#8, 0x02#8, 0x00#8, 0x01#8, 0x00#8, 0x60#8,
      0x80#8, 0x00#8, 0x06#8, 0x30#8, 0x01#8, 0x01#8, 0x00#8, 0xCD#8, 0xAB#8, 0x00#8, 0x80#8, 0xB6#8, 0x10#8])) := by
  decide +kernel

/-- 95 V26: 122 values. -/
theorem test_buildWrite_too_long :
    lastOf (exec (.buildWrite 2#8 1#8 2#16 1#16 0#16 122#8 (List.replicate 122 0#16)) State.reset) =
      some (.refused .payloadTooLong) := by decide +kernel

/-- R150: the operands' order. -/
theorem test_setIds : ∃ t, exec (.setIds 1#8 2#8 3#16 4#16) State.reset = .next t ∧ t.ids = ⟨1#8, 2#8, 3#16, 4#16⟩ ∧
    t.idsWritten = true := ⟨_, rfl, rfl, rfl⟩

/-- 95 V20: F1 at the cursor. -/
theorem test_readReq : lastOf (exec (.readReq f1Frame) (scanningOn scenarioFrame false)) =
    some (.msg ⟨0x69#8, 2#8, 1#8, 0x000084#24, 12#8, 0xF6#8, 0xF6#8⟩
      ⟨2#16, 1#16, 0x40#8, 0x0080#16, 92#8, 120#16, [], 0x7BC6#16, 0x7BC6#16⟩ scenarioFrame) := by decide +kernel

/-- 95 V21: F3 at the cursor. -/
theorem test_readResp : lastOf (exec (.readResp f3Frame) (scanningOn f3 false)) =
    some (.msg (headerAt f3) (messageAt f3) f3) := by decide +kernel

/-- 95 V27: F2 at the cursor. -/
theorem test_writePush : lastOf (exec (.writePush f2Frame) (scanningOn f2 false)) =
    some (.msg (headerAt f2) (messageAt f2) f2) := by decide +kernel

/-- 95 V27: F4 at the cursor. -/
theorem test_writeAck : lastOf (exec (.writeAck f4Frame) (scanningOn f4 false)) =
    some (.msg (headerAt f4) (messageAt f4) f4) := by decide +kernel

/-- 95 V22 row 31: a frame of unknown code at the cursor. -/
theorem test_frameOther : lastOf (exec (.frameOther 0x41#8 f41Frame) (scanningOn f41 false)) =
    some (.msg (headerAt f41) (messageAt f41) f41) := by decide +kernel

/-- 95 P4: a flipped data bit, at the cursor. -/
theorem test_readResp_corrupted : lastOf (step (scanningOn (f3.set 20 0x81#8) true)) = some (.error .invalidSoftChecksum) := by
  decide +kernel

/-- 95 V28: refused before SET_IDS. -/
theorem test_step_idsUnset : lastOf (step { State.reset with host := [.request (0x0C#8 :: 0x00#8 :: scenarioFrame)] }) =
    some (.refused .idsUnset) := by decide +kernel

/-! ## Witnesses: states and operands that meet the hypotheses of each statement -/

/-- F1 is legal with the ids of `configured`. -/
theorem legal_f1 : Legal configured.ids scenarioFrame := by
  intro row
  unfold IllegalRow
  split
  all_goals simp only [Ids.Configured, Ids.Bound]
  all_goals decide +kernel

/-- A first row of R67, from the rows before it one by one. -/
theorem firstIllegal_seven : FirstIllegal configured.ids (scenarioFrame.take 19) 7 := by
  refine ⟨by simp only [IllegalRow]; decide +kernel, fun k hk => ?_⟩
  interval_cases k <;> simp only [IllegalRow, Ids.Configured] <;> decide +kernel

/-- R67 row 1 at its boundary, seven bytes. -/
theorem firstIllegal_one : FirstIllegal configured.ids (scenarioFrame.take 7) 1 := by
  refine ⟨by simp only [IllegalRow]; decide +kernel, fun k hk => ?_⟩
  interval_cases k; exact id

/-- R67 row 1, one byte. -/
theorem firstIllegal_one_byte : FirstIllegal configured.ids (scenarioFrame.take 1) 1 := by
  refine ⟨by simp only [IllegalRow]; decide +kernel, fun k hk => ?_⟩
  interval_cases k; exact id

/-- R67 row 7 on the shortest rest that PROCESS_ALL parses in partial-tolerant mode, nine bytes. -/
theorem firstIllegal_nine : FirstIllegal configured.ids (scenarioFrame.take 9) 7 := by
  refine ⟨by simp only [IllegalRow]; decide +kernel, fun k hk => ?_⟩
  interval_cases k <;> simp only [IllegalRow, Ids.Configured] <;> decide +kernel

/-- R67 row 10 on bytes that match no frame row (95 V22 row 26). -/
theorem firstIllegal_ten : FirstIllegal configured.ids softConst01 10 := by
  refine ⟨by simp only [IllegalRow]; decide +kernel, fun k hk => ?_⟩
  interval_cases k <;> simp only [IllegalRow, Ids.Configured] <;> decide +kernel

/-- R67 row 11, with other logical ids (95 V29). -/
theorem firstIllegal_eleven : FirstIllegal ⟨1#8, 2#8, 0x0304#16, 0x0102#16⟩ scenarioFrame 11 := by
  refine ⟨by simp only [IllegalRow, Ids.Bound]; decide +kernel, fun k hk => ?_⟩
  interval_cases k <;> simp only [IllegalRow, Ids.Configured] <;> decide +kernel

theorem admits_configured (readsIds : Bool) (len : Nat) : configured.Admits readsIds len :=
  ⟨rfl, fun _ => rfl, fun _ h => nomatch h⟩

/-- A bound that an operand just meets. -/
theorem admits_at_the_bound : ({ configured with bufMax := some 20 } : State).Admits true scenarioFrame.length :=
  ⟨rfl, fun _ => rfl, fun max h => by cases h; decide⟩

theorem witness_ResetClearsAccumulatorsAndIdsWritten : ∃ t, configured.activity = .idle ∧
    exec (.processAll scenarioFrame false) configured = .next t ∧ t.activity = .scanning ⟨scenarioFrame, 0, false⟩ :=
  ⟨_, rfl, rfl, rfl⟩

theorem witness_ResetInputAbandonsTheOperation :
    ({ scanningOn scenarioFrame true with host := [.reset] } : State).host = .reset :: [] := rfl

theorem witness_Crc8OperationsReadAndWriteAcc8 : State.reset.activity = .idle := rfl

theorem witness_Crc16OperationsReadAndWriteAcc16 : configured.activity = .idle := rfl

theorem witness_MessageCrcsDependOnTheBytesAlone :
    State.reset.Admits false 0 ∧ ({ configured with bufMax := some 20 } : State).Admits false scenarioFrame.length :=
  ⟨⟨rfl, (fun h => nomatch h), fun _ h => nomatch h⟩, ⟨rfl, fun _ => rfl, fun max h => by cases h; decide⟩⟩

/-- An operation that ended with a value was not refused. -/
theorem not_refused {t : State} {o : Output} (h : t.outputs = [o]) (ho : ∀ r, o ≠ .refused r) :
    ∀ r, t.outputs ≠ configured.outputs ++ [.refused r] := by
  intro r hc
  rw [h] at hc
  exact ho r (List.cons.inj hc).1

theorem witness_UnspecifiedAccumulatorsAreFreeValues :
    ∀ i ∈ [Instr.crc8Msg [], .crc16Msg [], .parseHard [], .parseSoft [] 0#8, .processOne [] false, .processAll [] false,
        .buildRead 2#8 1#8 2#16 1#16 120#16 92#8, .buildWrite 2#8 1#8 2#16 1#16 304#16 2#8 [0x0001#16]],
      ∃ t, exec i configured = .next t ∧ ∀ r, t.outputs ≠ configured.outputs ++ [.refused r] := by
  intro i hi
  simp only [List.mem_cons, List.not_mem_nil, or_false] at hi
  rcases hi with rfl | rfl | rfl | rfl | rfl | rfl | rfl | rfl
  all_goals exact ⟨_, rfl, not_refused rfl (fun r h => nomatch h)⟩

theorem witness_StreamedBytesGiveTheMessageCrc :
    ({ State.reset with host := [.request [0x00#8], .request [0x01#8, 0x69#8], .request [0x02#8]] } : State).host =
      HostAct.request [0x00#8] :: ([0x69#8].map (fun b => HostAct.request [0x01#8, b]) ++ [HostAct.request [0x02#8]]) ∧
    ({ State.reset with host := [.request [0x04#8], .request [0x06#8]] } : State).host =
      HostAct.request [0x04#8] :: (([] : List Byte).map (fun b => HostAct.request [0x05#8, b]) ++ [HostAct.request [0x06#8]]) ∧
    State.reset.activity = .idle := ⟨rfl, rfl, rfl⟩

theorem witness_CrcIsLinear : [0x12#8, 0x34#8, 0x56#8].length = [0xAB#8, 0xCD#8, 0xEF#8].length := rfl

theorem witness_CrcDetectsEverySingleBitFlip : 7 < 8 * [0x00#8].length ∧ 0 < 8 * [0x00#8].length := by decide

theorem witness_ParseHardReadsTheHeaderFields :
    configured.Admits false (scenarioFrame.take 7).length ∧ configured.Admits false (scenarioFrame.take 8).length :=
  ⟨admits_configured _ _, admits_configured _ _⟩

theorem witness_ParseSoftReadsTheMessageFields :
    configured.Admits false ([] : List Byte).length ∧ configured.Admits false (scenarioFrame.drop 8).length :=
  ⟨admits_configured _ _, admits_configured _ _⟩

theorem witness_ValidateHardReportsTheFirstFailure :
    (State.reset.activity = .idle ∧ State.reset.idsWritten = false) ∧
    (configured.activity = .idle ∧ configured.idsWritten = true ∧ configured.ids = ⟨1#8, 2#8, 1#16, 2#16⟩) ∧
    ({ configured with ids := ⟨2#8, 2#8, 1#16, 2#16⟩ } : State).ids.conHard = 2#8 := ⟨⟨rfl, rfl⟩, ⟨rfl, rfl, rfl⟩, rfl⟩

theorem witness_ValidateSoftReportsTheFirstFailure :
    (State.reset.activity = .idle ∧ State.reset.idsWritten = false) ∧
    (messageAt scenarioFrame).crc16 = (messageAt scenarioFrame).calcCrc16 ∧
    (messageAt scenarioFrame).constByte = 0x0080#16 ∧
    (configured.ids.Bound (headerAt scenarioFrame).fromHard (messageAt scenarioFrame).fromLogical ∧
      configured.ids.Bound (headerAt scenarioFrame).toHard (messageAt scenarioFrame).toLogical) ∧
    ¬ configured.ids.Bound (headerAt scenarioFrame).toHard 1#16 ∧
    configured.activity = .idle ∧ configured.idsWritten = true ∧ configured.ids = ⟨1#8, 2#8, 1#16, 2#16⟩ := by
  simp only [Ids.Bound]; decide +kernel

theorem witness_ProcessOneReportsTheFirstIllegalEncoding :
    (State.reset.Admits false scenarioFrame.length ∧ State.reset.idsWritten = false) ∧
    (configured.Admits true scenarioFrame.length ∧ Legal configured.ids scenarioFrame) ∧
    (configured.Admits true (scenarioFrame.take 7).length ∧ FirstIllegal configured.ids (scenarioFrame.take 7) 1) ∧
    (configured.Admits true (scenarioFrame.take 19).length ∧ FirstIllegal configured.ids (scenarioFrame.take 19) 7) ∧
    (∃ s : State, s.Admits true scenarioFrame.length ∧ FirstIllegal s.ids scenarioFrame 11) ∧
    ({ configured with activity := .handling (.result (.consumed 20 [])), host := [.ack] } : State).activity =
      .handling (.result (.consumed 20 [])) :=
  ⟨⟨⟨rfl, (fun h => nomatch h), fun _ h => nomatch h⟩, rfl⟩, ⟨admits_configured _ _, legal_f1⟩,
    ⟨admits_configured _ _, firstIllegal_one⟩, ⟨admits_configured _ _, firstIllegal_seven⟩,
    ⟨{ configured with ids := ⟨1#8, 2#8, 0x0304#16, 0x0102#16⟩ }, ⟨rfl, (fun _ => rfl), fun _ h => nomatch h⟩,
      firstIllegal_eleven⟩, rfl⟩

theorem witness_DeliveredFrameConsumesHeaderAndPayload :
    processFrame configured.ids scenarioFrame false =
      .delivered (headerAt scenarioFrame) (messageAt scenarioFrame) scenarioFrame 20 [] ∧
    ({ configured with host := [.ack], activity := .handling (.advance ⟨scenarioFrame, 0, false⟩ 20) } : State).host =
      .ack :: [] ∧ 0 < 20 := by decide +kernel

theorem witness_ProcessAllBeginsAtCursorZero : configured.Admits true ([] : List Byte).length ∧
    ({ configured with bufMax := some 20 } : State).Admits true scenarioFrame.length :=
  ⟨admits_configured _ _, admits_at_the_bound⟩

theorem witness_ProcessAllRunsToItsResult : ∃ s : State, s.Admits true scenarioFrame.length ∧
    s.host = List.replicate (2 * scenarioFrame.length) .ack :=
  ⟨{ configured with host := List.replicate (2 * scenarioFrame.length) .ack }, ⟨rfl, fun _ => rfl, fun _ h => nomatch h⟩, rfl⟩

theorem witness_ProcessAllDeliversFrameAfterFrame :
    (Legal configured.ids scenarioFrame ∧ scenarioFrame.length = 8 + (byteAt scenarioFrame 6).toNat) ∧
    (List.replicate 8 0x00#8).length ≤ 8 ∧ 0 < (scenarioFrame.take 7).length ∧ (scenarioFrame.take 7).length < 8 ∧
    ((if false then 8 else 0) < (scenarioFrame.take 1).length ∧ FirstIllegal configured.ids (scenarioFrame.take 1) 1) ∧
    ((if true then 8 else 0) < (scenarioFrame.take 9).length ∧ FirstIllegal configured.ids (scenarioFrame.take 9) 7) :=
  ⟨⟨legal_f1, by decide⟩, by decide, by decide, by decide, ⟨by decide, firstIllegal_one_byte⟩, by decide, firstIllegal_nine⟩

theorem witness_DecoderOutcomesDependOnOperandsAndIds :
    let other : State := { configured with acc8 := 0x55#8, outputs := [.value .none] }
    configured.ids = other.ids ∧ configured.idsWritten = other.idsWritten ∧ configured.activity = other.activity ∧
      configured.bufMax = other.bufMax ∧ ∃ t, exec (.processOne scenarioFrame true) configured = .next t :=
  ⟨rfl, rfl, rfl, rfl, _, rfl⟩

theorem witness_SingleBitFlipIsNeverDelivered : configured.Admits true scenarioFrame.length ∧
    outputsOf (exec (.processOne scenarioFrame false) configured) =
      configured.outputs ++ [.msg (headerAt scenarioFrame) (messageAt scenarioFrame) scenarioFrame] ∧
    7 < 8 * scenarioFrame.length ∧ 8 < 8 * scenarioFrame.length ∧ 63 < 8 * scenarioFrame.length ∧
    159 < 8 * scenarioFrame.length := ⟨admits_configured _ _, by decide +kernel, by decide, by decide, by decide, by decide⟩

theorem witness_EqualHardIdsDeliverNothing : (⟨2#8, 2#8, 1#16, 2#16⟩ : Ids).conHard = (⟨2#8, 2#8, 1#16, 2#16⟩ : Ids).devHard :=
  rfl

/-- Each of the five frame instructions meets the hypotheses on fields and checksums. -/
theorem witness_FramesAtTheCursorAreDelivered :
    let s := scanningOn scenarioFrame false
    s.activity = .scanning ⟨scenarioFrame, 0, false⟩ ∧ s.idsWritten = true ∧
    ∀ p ∈ [(0x40#8, f1Frame, 92#8, 120#16, [], 0x7BC6#16), (0x41#8, f41Frame, 92#8, 120#16, [], 0x3E66#16),
        (0x50#8, f3Frame, 4#8, 120#16, [0x34#8, 0x12#8, 0x85#8, 0xFF#8], 0x9C2B#16),
        (0x60#8, f2Frame, 2#8, 304#16, [0x01#8, 0x00#8], 0x2385#16), (0x70#8, f4Frame, 2#8, 304#16, [], 0xFC7B#16)],
      let (fn, f, count, start, rest, crc) := p
      f.tail = .whole count start rest crc ∧ f.payloadLength.toNat = 12 + rest.length ∧
      f.crc8 = crc8 [0x69#8, f.toHard, f.fromHard, 0x84#8, 0x00#8, 0x00#8, f.payloadLength] ∧
      s.ids.Bound f.toHard f.toLogical ∧ s.ids.Bound f.fromHard f.fromLogical ∧ f.toHard ≠ f.fromHard ∧
      crc = crc16 ([lo8 f.toLogical, hi8 f.toLogical, lo8 f.fromLogical, hi8 f.fromLogical, fn, 0x80#8, 0x00#8, count,
        lo8 start, hi8 start] ++ rest) := by
  simp only [Ids.Bound]; decide +kernel

theorem witness_IllegalFramesAtTheCursorEndProcessAll : ∃ i : Instr, i.space = .buffer ∧
    (scanningOn (scenarioFrame.take 19) true).activity = .scanning ⟨scenarioFrame.take 19, 0, true⟩ ∧
    (scanningOn (scenarioFrame.take 19) true).idsWritten = true ∧
    FirstIllegal (scanningOn (scenarioFrame.take 19) true).ids (encode i) 7 :=
  ⟨.readReq { f1Frame with tail := .cut [0x5C#8, 0x78#8, 0x00#8, 0x7B#8] }, rfl, rfl, rfl, firstIllegal_seven⟩

theorem witness_EveryDeliveredFrameMatchesATableRow :
    processFrame configured.ids (f41 ++ [0xAA#8]) true = .delivered (headerAt f41) (messageAt f41) f41 20 [0xAA#8] := by
  decide +kernel

theorem witness_BuildReadWritesTheRequestFrame : State.reset.activity = .idle ∧ (2#8 : Byte) = 2#8 := ⟨rfl, rfl⟩

theorem witness_BuildWriteWritesTheValuesLowByteFirst : State.reset.activity = .idle ∧
    (List.replicate 121 0x0000#16).length ≤ 121 ∧ 121 < (List.replicate 122 0x0000#16).length :=
  ⟨rfl, by rw [List.length_replicate], by rw [List.length_replicate]; decide⟩

theorem witness_BuildWriteRefusesMoreThan121Values : configured.activity = .idle ∧
    (List.replicate 121 0x0000#16).length ≤ 121 ∧ 121 < (List.replicate 122 0x0000#16).length :=
  ⟨rfl, by rw [List.length_replicate], by rw [List.length_replicate]; decide⟩

theorem witness_BuiltFramesCarryTheirChecksums :
    outputsOf (exec (.buildRead 2#8 1#8 2#16 1#16 120#16 92#8) State.reset) =
      State.reset.outputs ++ [.value (.frame scenarioFrame)] ∧
    outputsOf (exec (.buildWrite 2#8 1#8 2#16 1#16 304#16 2#8 [0x0001#16]) State.reset) =
      State.reset.outputs ++ [.value (.frame f2)] := by decide +kernel

theorem witness_BuiltFramesDecodeToTheirOperands : configured.Admits true 262 ∧ configured.ids = ⟨1#8, 2#8, 1#16, 2#16⟩ ∧
    (1#8 : Byte) ≠ 2#8 ∧ (List.replicate 121 0x0000#16).length ≤ 121 :=
  ⟨admits_configured _ _, rfl, by decide, by rw [List.length_replicate]⟩

theorem witness_BuildersReadNoState : State.reset.activity = .idle ∧ State.reset.idsWritten = false := ⟨rfl, rfl⟩

theorem witness_SetIdsWritesAllFourIds : configured.activity = .idle ∧
    (∃ t, exec (.setIds 3#8 4#8 5#16 6#16) configured = .next t ∧ t.ids ≠ configured.ids) ∧ Instr.crc8Read.space = .command ∧
    (⟨2#8, 2#8, 1#16, 2#16⟩ : Ids).conHard = (⟨2#8, 2#8, 1#16, 2#16⟩ : Ids).devHard := ⟨rfl, ⟨_, rfl, by decide⟩, rfl, rfl⟩

theorem witness_InstructionsWriteOnlyTheirRegisters :
    (∃ t, exec (.readReq f1Frame) (scanningOn scenarioFrame false) = .next t) ∧ (∃ t, exec .crc8Read configured = .next t) ∧
    ∃ t, exec (.crc16Byte 0x80#8) configured = .next t := ⟨⟨_, rfl⟩, ⟨_, rfl⟩, _, rfl⟩

theorem witness_OnlySetIdsAndResetTouchTheIds :
    (∃ t, step { configured with host := [.reset] } = .next t ∧ t.idsWritten ≠ configured.idsWritten) ∧
    ∃ t, step { configured with host := [.request [0x10#8, 3#8, 2#8, 1#8, 0#8, 2#8, 0#8]] } = .next t ∧
      t.ids ≠ configured.ids := ⟨⟨_, rfl, by decide⟩, _, rfl, by decide⟩

theorem witness_ErrorKindsComeFromTheirOperations : ∃ t, exec (.parseHard []) configured = .next t ∧
    t.outputs = configured.outputs ++ [.error .frameTooShort] ∧ .error .frameTooShort ∈ [Output.error .frameTooShort] :=
  ⟨_, rfl, rfl, List.mem_singleton.2 rfl⟩

/-- The step clause of the same statement: a request, bytes at the cursor that match no frame row, the loop's tail. -/
theorem witness_ErrorKindsComeFromTheirOperations_step :
    lastOf (step { configured with host := [.request [0x08#8]] }) = some (.error .frameTooShort) ∧
    lastOf (step (scanningOn softConst01 true)) = some (.error .invalidSoftConst) ∧
    lastOf (step { configured with
      host := [.ack], activity := .handling (.advance ⟨scenarioFrame, 0, false⟩ 0) }) = some (.error .stuckConsumption) := by
  decide +kernel

theorem witness_RefusedRequestsChangeNothing :
    ((scanningOn scenarioFrame true).activity ≠ .idle ∧ configured.activity = .idle ∧ State.reset.idsWritten = false) ∧
    0x11 ≤ (0x11#8 : Byte).toNat % 32 ∧ 0x11 ≤ (0xFF#8 : Byte).toNat % 32 ∧
    ({ configured with bufMax := some 19 } : State).bufMax = some 19 ∧ 19 < scenarioFrame.length ∧
    121 < (List.replicate 122 0x0000#16).length :=
  ⟨⟨by decide, rfl, rfl⟩, by decide, by decide, rfl, by decide, by rw [List.length_replicate]; decide⟩

theorem witness_HandlingBlocksUntilTheHostReturns : ∃ t,
    ({ configured with activity := .handling (.result (.consumed 20 [])), host := [.request [0x00#8]] } : State).activity =
      .handling (.result (.consumed 20 [])) ∧
    step { configured with activity := .handling (.result (.consumed 20 [])), host := [.request [0x00#8]] } = .next t :=
  ⟨_, rfl, rfl⟩

theorem witness_TheCursorMovesOnlyPastDeliveredFrames : ∃ s t : State, step s = .next t ∧
    s.activity.cursor = some ⟨scenarioFrame ++ [0x69#8], 0, false⟩ ∧
    t.activity.cursor = some ⟨scenarioFrame ++ [0x69#8], 20, false⟩ :=
  ⟨{ configured with host := [.ack], activity := .handling (.advance ⟨scenarioFrame ++ [0x69#8], 0, false⟩ 20) }, _, rfl, rfl, rfl⟩

theorem witness_BlockDoesNothingUnasked : configured.activity = .idle ∧ configured.host = [] ∧
    ({ configured with host := [.idle] } : State).host = .idle :: [] ∧
    ({ configured with host := [.ack], activity := .handling (.result .ok) } : State).activity = .handling (.result .ok) :=
  ⟨rfl, rfl, rfl, rfl⟩

theorem witness_OutputsOnlyGrow : ∃ t, step configured = .next t := ⟨_, rfl⟩

theorem witness_EveryStepKeepsTheInvariant : (scanningOn scenarioFrame false).Inv ∧
    ∃ t, step (scanningOn scenarioFrame false) = .next t :=
  ⟨⟨⟨rfl, by decide⟩, fun _ h => nomatch h⟩, _, rfl⟩

theorem witness_StepNeverFaults : step { configured with host := [.request []] } = .refused .malformedRequest := rfl

theorem witness_StepRunsTheFetchedInstruction :
    decode .command [0x01#8, 0x69#8] = .ok (.crc8Byte 0x69#8) ∧
    ((scanningOn scenarioFrame false).activity = .scanning ⟨scenarioFrame, 0, false⟩ ∧
      decode .buffer (scenarioFrame.drop 0) = .ok (.readReq f1Frame) ∧ (scanningOn scenarioFrame false).host = []) ∧
    decode .buffer ((scenarioFrame.take 14).drop 0) = .error .frameTooShort := by decide +kernel

/-- The clause of the same statement on bytes that match no frame row: each form of a host that asks nothing, each decode
error, the rows 1, 7 and 10 of R67 on such bytes, and ids not written. -/
theorem witness_StepRunsTheFetchedInstruction_noRow :
    ((scanningOn softConst01 true).Unasked ∧ ({ scanningOn softConst01 true with host := [.idle] } : State).Unasked ∧
      ({ scanningOn softConst01 true with host := [.ack] } : State).Unasked) ∧
    (decode .buffer (softConst01.drop 0) = .error .noFrameRow ∧ FirstIllegal configured.ids (softConst01.drop 0) 10) ∧
    (decode .buffer ((scenarioFrame.take 1).drop 0) = .error .frameTooShort ∧
      FirstIllegal configured.ids ((scenarioFrame.take 1).drop 0) 1) ∧
    (decode .buffer ((scenarioFrame.take 9).drop 0) = .error .frameTooShort ∧
      FirstIllegal configured.ids ((scenarioFrame.take 9).drop 0) 7) ∧
    ({ scanningOn softConst01 true with idsWritten := false } : State).idsWritten = false :=
  ⟨⟨.inl rfl, .inr ⟨[], .inl rfl⟩, .inr ⟨[], .inr ⟨rfl, fun _ h => nomatch h⟩⟩⟩, ⟨by decide +kernel, firstIllegal_ten⟩,
    ⟨by decide +kernel, firstIllegal_one_byte⟩, ⟨by decide +kernel, firstIllegal_nine⟩, rfl⟩

theorem witness_FrameInstructionAgreesWithItsBytes :
    (scanningOn f3 true).activity = .scanning ⟨f3, 0, true⟩ ∧ decode .buffer f3 = .ok (.readResp f3Frame) := by decide +kernel

theorem witness_PlacedTableWordRunsNext : decodeTableWord 8 0x01 = some (.crc8Byte 0x00#8) := by decide +kernel

theorem witness_DecodeOfEncodeIsTheInstruction : (Instr.frameOther 0x41#8 f41Frame).wellFormed = true ∧
    (Instr.readReq { f1Frame with tail := .cut [] }).wellFormed = true ∧ Instr.crc8Clr.wellFormed = true := by decide

theorem witness_OperationNumbersSelectTheOperation : Instr.crc8Clr.space = .command ∧
    decode .command [0xE1#8, 0x69#8] = .ok (.crc8Byte 0x69#8) ∧ 0x11 ≤ (0x11#8 : Byte).toNat % 32 ∧
    ({ configured with host := [.request [0x1F#8]] } : State).host = .request [0x1F#8] :: [] := by decide

end Sys2Proof.Tests
end

section
/-! Reset and the start of an operation (10_state R20): the two accumulator reads, and where PROCESS_ALL's loop begins. -/

namespace Sys2Proof.Proofs

open Sys2Proof Sys2Proof.Machine

@[simp] theorem outputsOf_next (t : State) : outputsOf (.next t) = t.outputs := rfl

theorem exec_crc8Read_of_idle {s : State} (h : s.activity = .idle) :
    exec .crc8Read s = .next (s.finish (.byte s.acc8)) :=
  State.perform_of_admits (State.admits_plain h) _

theorem exec_crc16Read_of_idle {s : State} (h : s.activity = .idle) :
    exec .crc16Read s = .next (s.finish (.half s.acc16)) :=
  State.perform_of_admits (State.admits_plain h) _

theorem exec_processAll_eq_perform (buffer : List Byte) (allowPartial : Bool) (s : State) :
    exec (.processAll buffer allowPartial) s =
      s.perform true buffer.length (s.spoilAcc8.spoilAcc16.loop ⟨buffer, 0, allowPartial⟩) := rfl

/-- Everything the head of PROCESS_ALL's loop can do (41 R106). -/
theorem loop_cases (s : State) (sc : Scan) :
    (sc.min < sc.rest.length ∧ s.loop sc = { s with activity := .scanning sc }) ∨
    (sc.rest.length ≤ sc.min ∧ s.loop sc = s.finish (.remaining sc.rest)) := by
  unfold State.loop
  split
  case isTrue h => exact .inl ⟨h, rfl⟩
  case isFalse h => exact .inr ⟨Nat.le_of_not_lt h, rfl⟩

/-- The head of the loop takes a turn at the cursor it was given, or none. -/
theorem eq_of_loop_scanning {s : State} {sc sc' : Scan} (h : (s.loop sc).activity = .scanning sc') : sc' = sc := by
  rcases loop_cases s sc with ⟨-, he⟩ | ⟨-, he⟩
  · rw [he] at h
    exact (Activity.scanning.inj h).symm
  · rw [he] at h
    cases h

/-- 10_state R14, R20: the cursor of a PROCESS_ALL that has just begun. A refused request leaves the block idle, with no
cursor at all. -/
theorem pos_eq_zero_of_exec_processAll {s t : State} {buffer : List Byte} {allowPartial : Bool} {sc : Scan}
    (hidle : s.activity = .idle) (hexec : exec (.processAll buffer allowPartial) s = .next t)
    (hscan : t.activity = .scanning sc) : sc.pos = 0 := by
  rw [exec_processAll_eq_perform] at hexec
  rcases State.perform_next hexec with ⟨-, rfl⟩ | ⟨why, -, rfl⟩
  · rw [eq_of_loop_scanning hscan]
  · rw [State.refuse_activity, hidle] at hscan
    cases hscan

/-- Settles O1: R20's values are the fields of `State.reset`, each read delivers the accumulator of an idle state, and a
PROCESS_ALL that takes a turn enters the loop at the scan it was given, whose cursor is 0. -/
theorem resetClearsAccumulatorsAndIdsWritten : Obligations.ResetClearsAccumulatorsAndIdsWritten := by
  have hidle : State.reset.activity = .idle := rfl
  refine ⟨rfl, rfl, rfl, hidle, rfl, ?crc8Read, ?crc16Read, ?cursor⟩
  case crc8Read => rw [exec_crc8Read_of_idle hidle]; rfl
  case crc16Read => rw [exec_crc16Read_of_idle hidle]; rfl
  case cursor => exact fun s t buffer allowPartial sc => pos_eq_zero_of_exec_processAll

end Sys2Proof.Proofs
end

section
/-! The CRC engine and its eight operations (40_crc R80 to R93): what a round and a step compute, and what each operation
leaves of an idle state. -/

namespace Sys2Proof.Proofs

open Sys2Proof Sys2Proof.Machine

/-! ## The rounds, the steps and the folds -/

theorem getLsbD_last_iff {w : Nat} (a : BitVec (w + 1)) : a.getLsbD w = true ↔ 2 ^ w ≤ a.toNat := by
  simpa [BitVec.msb_eq_getLsbD_last] using congrArg (· = true) (BitVec.msb_eq_decide a)

theorem toNat_shiftLeft_one_of_lt {w : Nat} {a : BitVec (w + 1)} (h : a.toNat < 2 ^ w) : (a <<< 1).toNat = 2 * a.toNat := by
  rw [BitVec.toNat_shiftLeft, Nat.shiftLeft_eq, pow_one, Nat.mod_eq_of_lt (by omega), Nat.mul_comm]

/-- The shift drops the top bit when it is set. -/
theorem toNat_shiftLeft_one_of_le {w : Nat} {a : BitVec (w + 1)} (h : 2 ^ w ≤ a.toNat) :
    (a <<< 1).toNat = 2 * a.toNat - 2 ^ (w + 1) := by
  have hlt := a.isLt
  rw [BitVec.toNat_shiftLeft, Nat.shiftLeft_eq, pow_one, Nat.mod_eq_sub_mod (by omega), Nat.mod_eq_of_lt (by omega),
    Nat.mul_comm]

/-- The round of either width (R80, R82), as arithmetic on numbers. -/
theorem toNat_round {w : Nat} (a poly : BitVec (w + 1)) :
    (if a.getLsbD w then (a <<< 1) ^^^ poly else a <<< 1).toNat =
      if 2 ^ w ≤ a.toNat then (2 * a.toNat - 2 ^ (w + 1)) ^^^ poly.toNat else 2 * a.toNat := by
  by_cases h : 2 ^ w ≤ a.toNat
  · rw [if_pos h, if_pos ((getLsbD_last_iff a).2 h), BitVec.toNat_xor, toNat_shiftLeft_one_of_le h]
  · rw [if_neg h, if_neg (mt (getLsbD_last_iff a).1 h), toNat_shiftLeft_one_of_lt (Nat.lt_of_not_le h)]

theorem toNat_crc8Round (a : Byte) :
    (crc8Round a).toNat = if 128 ≤ a.toNat then (2 * a.toNat - 256) ^^^ 0xD5 else 2 * a.toNat :=
  toNat_round a poly8

theorem toNat_crc16Round (a : Half) :
    (crc16Round a).toNat = if 32768 ≤ a.toNat then (2 * a.toNat - 65536) ^^^ 0x1021 else 2 * a.toNat :=
  toNat_round a poly16

/-- R82: the byte enters the CRC-16 at the high byte. -/
theorem zeroExtend_shiftLeft_eight (b : Byte) : (b.zeroExtend 16 <<< 8 : Half) = BitVec.ofNat 16 (256 * b.toNat) := by
  apply BitVec.eq_of_toNat_eq
  have hlt := b.isLt
  simp only [BitVec.toNat_shiftLeft, BitVec.toNat_setWidth, BitVec.toNat_ofNat, Nat.shiftLeft_eq]
  omega

theorem crc8_concat (B : List Byte) (b : Byte) : crc8 (B ++ [b]) = crc8Step (crc8 B) b := List.foldl_concat ..

theorem crc16_concat (B : List Byte) (b : Byte) : crc16 (B ++ [b]) = crc16Step (crc16 B) b := List.foldl_concat ..

/-- Settles O3: a round is the doubling with the polynomial by its value as a number, the CRC-16's byte is 256 times its
value, and the functions end with the step of their last byte. -/
theorem crcFunctionsAreTheBitwiseFold : Obligations.CrcFunctionsAreTheBitwiseFold := by
  refine ⟨toNat_crc8Round, toNat_crc16Round, fun _ _ => rfl, ?crc16Step, rfl, rfl,
    fun B b => ⟨crc8_concat B b, crc16_concat B b⟩⟩
  case crc16Step =>
    intro acc b
    rw [← zeroExtend_shiftLeft_eight]
    rfl

/-! ## The operations -/

theorem exec_crc8Msg_of_admits {s : State} {bytes : List Byte} (h : s.Admits false bytes.length) :
    exec (.crc8Msg bytes) s = .next (s.spoilAcc8.finish (.byte (crc8 bytes))) :=
  State.perform_of_admits h _

theorem exec_crc16Msg_of_admits {s : State} {bytes : List Byte} (h : s.Admits false bytes.length) :
    exec (.crc16Msg bytes) s = .next (s.spoilAcc16.finish (.half (crc16 bytes))) :=
  State.perform_of_admits h _

theorem exec_crc8Clr_of_idle {s : State} (h : s.activity = .idle) :
    exec .crc8Clr s = .next ((s.setAcc8 init8).finish .none) :=
  State.perform_of_admits (State.admits_plain h) _

theorem exec_crc8Byte_of_idle {s : State} (h : s.activity = .idle) (b : Byte) :
    exec (.crc8Byte b) s = .next ((s.setAcc8 (crc8Step s.acc8 b)).finish .none) :=
  State.perform_of_admits (State.admits_plain h) _

theorem exec_crc16Clr_of_idle {s : State} (h : s.activity = .idle) :
    exec .crc16Clr s = .next ((s.setAcc16 init16).finish .none) :=
  State.perform_of_admits (State.admits_plain h) _

theorem exec_crc16Byte_of_idle {s : State} (h : s.activity = .idle) (b : Byte) :
    exec (.crc16Byte b) s = .next ((s.setAcc16 (crc16Step s.acc16 b)).finish .none) :=
  State.perform_of_admits (State.admits_plain h) _

/-- Settles O6: an admitted request ends with the CRC of its bytes, and of the state only the accumulator that the operation
spoils and the counter of free values move. -/
theorem messageCrcsDependOnTheBytesAlone : Obligations.MessageCrcsDependOnTheBytesAlone := by
  refine ⟨fun bytes => ⟨Laws.HeadByte.crc8Msg bytes, Laws.HeadByte.crc16Msg bytes⟩, ?effect, rfl, rfl, by decide, by decide⟩
  case effect =>
    intro s bytes h
    have hidle : s.activity = .idle := h.idle
    rw [exec_crc8Msg_of_admits h, exec_crc16Msg_of_admits h, State.finish_of_idle (s := s.spoilAcc8) hidle,
      State.finish_of_idle (s := s.spoilAcc16) hidle]
    exact ⟨⟨_, _, rfl⟩, _, _, rfl⟩

/-- Settles O4: the three operations are always admitted on an idle block; the rest are R87's and R88's traces. -/
theorem crc8OperationsReadAndWriteAcc8 : Obligations.Crc8OperationsReadAndWriteAcc8 := by
  refine ⟨Laws.HeadByte.crc8Clr, Laws.HeadByte.crc8Byte, Laws.HeadByte.crc8Read, ?effect, by decide, by decide, by decide⟩
  case effect =>
    intro s hidle
    refine ⟨?clr, fun b => ?byte, ?read⟩
    case clr =>
      rw [exec_crc8Clr_of_idle hidle, State.finish_of_idle (s := s.setAcc8 init8) hidle]
      rfl
    case byte =>
      rw [exec_crc8Byte_of_idle hidle, State.finish_of_idle (s := s.setAcc8 (crc8Step s.acc8 b)) hidle]
      rfl
    case read => rw [exec_crc8Read_of_idle hidle, State.finish_of_idle hidle]

/-- Settles O5: as for the CRC-8, with R90's and R91's traces. -/
theorem crc16OperationsReadAndWriteAcc16 : Obligations.Crc16OperationsReadAndWriteAcc16 := by
  refine ⟨Laws.HeadByte.crc16Clr, Laws.HeadByte.crc16Byte, Laws.HeadByte.crc16Read, ?effect, by decide, by decide, by decide,
    by decide⟩
  case effect =>
    intro s hidle
    refine ⟨?clr, fun b => ?byte, ?read⟩
    case clr =>
      rw [exec_crc16Clr_of_idle hidle, State.finish_of_idle (s := s.setAcc16 init16) hidle]
      rfl
    case byte =>
      rw [exec_crc16Byte_of_idle hidle, State.finish_of_idle (s := s.setAcc16 (crc16Step s.acc16 b)) hidle]
      rfl
    case read => rw [exec_crc16Read_of_idle hidle, State.finish_of_idle hidle]

end Sys2Proof.Proofs
end

section
/-! The parsers and the binding of ids (41_frame_decode R100, R102, R104): what an admitted parse leaves of the state, and the
order in which an address is looked up. -/

namespace Sys2Proof.Proofs

open Sys2Proof Sys2Proof.Machine

theorem exec_parseHard_of_admits {s : State} {buf : List Byte} (h : s.Admits false buf.length) :
    exec (.parseHard buf) s = .next (s.spoilAcc8.deliver ((parseHard buf).map .header)) :=
  State.perform_of_admits h _

theorem exec_parseSoft_of_admits {s : State} {p : List Byte} (h : s.Admits false p.length) (n : Byte) :
    exec (.parseSoft p n) s = .next (s.spoilAcc16.deliver ((parseSoft p n).map .message)) :=
  State.perform_of_admits h _

@[simp] theorem deliver_map_ok {α : Type} (s : State) (f : α → Value) (a : α) :
    s.deliver ((Except.ok a).map f) = s.finish (f a) := rfl

@[simp] theorem deliver_map_error {α : Type} (s : State) (f : α → Value) (k : ErrorKind) :
    s.deliver ((Except.error k).map f) = s.raise k := rfl

/-- Settles O13: an admitted PARSE_HARD delivers what `parseHard` gives, which is the one error or `headerAt`. -/
theorem parseHardReadsTheHeaderFields : Obligations.ParseHardReadsTheHeaderFields := by
  refine ⟨Laws.HeadByte.parseHard, ?effect, by decide +kernel⟩
  case effect =>
    intro s buf h
    have hidle : s.spoilAcc8.activity = .idle := h.idle
    refine ⟨s.spoilAcc8.acc8, s.spoilAcc8.draws, ?_⟩
    rw [exec_parseHard_of_admits h, parseHard_eq]
    by_cases hshort : buf.length < 8
    · rw [if_pos hshort, if_pos hshort, deliver_map_error, State.raise_of_idle hidle]
      rfl
    · rw [if_neg hshort, if_neg hshort, deliver_map_ok, State.finish_of_idle hidle]
      rfl

theorem parseSoft_of_length_ne {p : List Byte} {n : Byte} (h : p.length ≠ n.toNat) :
    parseSoft p n = .error .softLengthMismatch := if_pos h

theorem parseSoft_of_lt {p : List Byte} {n : Byte} (hlen : p.length = n.toNat) (hshort : p.length < 12) :
    parseSoft p n = .error .softMessageTooShort := by
  unfold parseSoft softMin
  rw [if_neg (not_not.2 hlen), if_pos hshort]

/-- R102: the fields of a soft message of the declared length, `rest_message` as the bytes between offset 10 and the CRC-16. -/
theorem parseSoft_of_le {p : List Byte} {n : Byte} (hlen : p.length = n.toNat) (hmin : ¬ p.length < 12) :
    parseSoft p n = .ok
      { toLogical := le16 (byteAt p 0) (byteAt p 1), fromLogical := le16 (byteAt p 2) (byteAt p 3)
        functionCode := byteAt p 4, constByte := le16 (byteAt p 5) (byteAt p 6)
        registerCount := byteAt p 7, registerStart := le16 (byteAt p 8) (byteAt p 9)
        restMessage := (p.drop 10).take (n.toNat - 12)
        crc16 := be16 (byteAt p (p.length - 2)) (byteAt p (p.length - 1))
        calcCrc16 := crc16 (p.take (p.length - 2)) } := by
  have hrest : slice p 10 (n.toNat - 2) = (p.drop 10).take (n.toNat - 12) := by
    rw [slice, List.drop_take, Nat.sub_sub]
  unfold parseSoft softMin
  rw [if_neg (not_not.2 hlen), if_neg hmin, hrest, slice, List.drop_zero, hlen]

/-- Settles O14: an admitted PARSE_SOFT delivers what `parseSoft` gives: the length error, then the minimum, else the fields. -/
theorem parseSoftReadsTheMessageFields : Obligations.ParseSoftReadsTheMessageFields := by
  refine ⟨Laws.HeadByte.parseSoft, ?effect, by decide +kernel⟩
  case effect =>
    intro s p n h
    have hidle : s.spoilAcc16.activity = .idle := h.idle
    refine ⟨s.spoilAcc16.acc16, s.spoilAcc16.draws, ?_⟩
    rw [exec_parseSoft_of_admits h]
    by_cases hlen : p.length = n.toNat
    · rw [if_neg (not_not.2 hlen)]
      by_cases hshort : p.length < 12
      · rw [parseSoft_of_lt hlen hshort, if_pos hshort, deliver_map_error, State.raise_of_idle hidle]
        rfl
      · rw [parseSoft_of_le hlen hshort, if_neg hshort, deliver_map_ok, State.finish_of_idle hidle]
        rfl
    · rw [parseSoft_of_length_ne hlen, if_pos hlen, deliver_map_error, State.raise_of_idle hidle]
      rfl

/-- Settles O16: the model's lookup is R104's by definition, the controller's binding first. -/
theorem logicalOfTriesTheControllerFirst : Obligations.LogicalOfTriesTheControllerFirst := fun _ _ => rfl

end Sys2Proof.Proofs
end

section
/-! A delivered frame and the loop behind it (41_frame_decode R107, R108): what one frame consumes, how the cursor moves on the
host's return, and why no loop gets stuck. -/

namespace Sys2Proof.Proofs

open Sys2Proof Sys2Proof.Machine

/-- R107: a delivered frame is the head of the buffer, header and payload and no more. -/
theorem consumption_of_delivered {ids : Ids} {buffer raw rest : List Byte} {allowPartial : Bool} {h : HardHeader}
    {sh : SoftMessage} {n : Nat} (hd : processFrame ids buffer allowPartial = .delivered h sh raw n rest) :
    n = 8 + h.payloadLength.toNat ∧ 20 ≤ n ∧ raw.length = n ∧ raw ++ rest = buffer := by
  obtain ⟨hlegal, rfl, -, rfl, rfl, rfl⟩ := legal_of_delivered hd
  obtain ⟨hmin, hfits⟩ := hlegal.length
  exact ⟨rfl, by omega, List.length_take_of_le hfits, List.take_append_drop _ _⟩

/-- 43 R153: the host's return resumes the operation that emitted the MSG. -/
theorem step_of_ack {s : State} {r : Resume} {later : List HostAct} (hhost : s.host = .ack :: later)
    (hact : s.activity = .handling r) : step s = .next (({ s with host := later } : State).resume r) := by
  rw [step_eq, State.fetch, hhost]
  simp only [State.respond, hact]
  rfl

/-- The loop's tail after a frame that consumed something is the loop's head at the moved cursor. -/
theorem afterOne_of_pos (s : State) (sc : Scan) {n : Nat} (hn : 0 < n) :
    s.afterOne sc n = s.loop { sc with pos := sc.pos + n } := if_neg (Nat.ne_of_gt hn)

/-- The head of the loop as one state: another turn at the cursor, or the end with what is left. -/
theorem loop_eq (s : State) (sc : Scan) :
    s.loop sc = { s with
      activity := if sc.min < sc.rest.length then .scanning sc else .idle
      outputs := if sc.min < sc.rest.length then s.outputs else s.outputs ++ [Output.value (.remaining sc.rest)] } := by
  rcases loop_cases s sc with ⟨hmore, he⟩ | ⟨hend, he⟩
  · rw [he, if_pos hmore, if_pos hmore]
  · rw [he, if_neg (Nat.not_lt.2 hend), if_neg (Nat.not_lt.2 hend)]
    rfl

/-- Settles O19: the consumption of a delivered frame, and the loop's head at the cursor moved by it. -/
theorem deliveredFrameConsumesHeaderAndPayload : Obligations.DeliveredFrameConsumesHeaderAndPayload := by
  refine ⟨fun _ _ _ _ _ _ _ _ => consumption_of_delivered, ?advance⟩
  case advance =>
    intro s later sc n hhost hact hn
    rw [step_of_ack hhost hact, State.resume, afterOne_of_pos _ _ hn, loop_eq, Scan.rest, List.length_drop]
    rfl

theorem rowKind_ne_stuckConsumption (row : Nat) : rowKind row ≠ .stuckConsumption := by
  unfold rowKind
  split <;> decide

/-- The loop from any cursor: a frame's own error is that of a row of R67, and only the partial-tolerant mode waits, where the
loop ends with what is left. -/
theorem stuckConsumption_notMem_scanOutputs (ids : Ids) (fuel : Nat) (sc : Scan) :
    Output.error .stuckConsumption ∉ scanOutputs ids sc fuel := by
  induction fuel generalizing sc with
  | zero => simp [scanOutputs]
  | succ fuel ih =>
    rw [scanOutputs]
    split
    case isFalse => simp
    case isTrue =>
      split
      case h_1 k hraised =>
        obtain ⟨row, rfl⟩ := processFrame_raised hraised
        simpa using (rowKind_ne_stuckConsumption row).symm
      case h_2 hwaits => simp [processFrame_waits hwaits]
      case h_3 => simpa using ih _

/-- Settles O23: strict mode never waits, a delivered frame consumes at least 20 bytes, and the loop's outputs hold no
`StuckConsumption`. -/
theorem stuckConsumptionIsNeverRaised : Obligations.StuckConsumptionIsNeverRaised := by
  refine ⟨fun ids buffer => ?one, fun ids buffer allowPartial => stuckConsumption_notMem_scanOutputs ids _ _⟩
  case one =>
    cases hp : processFrame ids buffer false with
    | raised k => exact .inl ⟨k, rfl⟩
    | waits => exact absurd (processFrame_waits hp) Bool.false_ne_true
    | delivered h sh raw n rest => exact .inr ⟨h, sh, raw, n, rest, rfl, (consumption_of_delivered hp).2.1⟩

end Sys2Proof.Proofs
end

section
/-! One flipped bit (40_crc R95 (g), 41_frame_decode R114): what `flipBit` changes of a byte string, that both CRCs notice it,
and which row of 30_encoding R67 a legal frame then breaks first. -/

namespace Sys2Proof.Proofs

open Sys2Proof Sys2Proof.Machine

/-! ## The flipped sequence -/

@[simp] theorem length_flipBit (F : List Byte) (k : Nat) : (flipBit F k).length = F.length := List.length_modify ..

theorem xor_bit_ne (b : Byte) (k : Nat) : b ^^^ (1#8 <<< (k % 8)) ≠ b := by
  have hbit : ∀ j < 8, (1#8 <<< j : Byte) ≠ 0#8 := by decide
  intro h
  exact hbit (k % 8) (Nat.mod_lt _ (by decide)) (by simpa using h)

theorem byteAt_flipBit_of_ne (F : List Byte) {k j : Nat} (h : k / 8 ≠ j) : byteAt (flipBit F k) j = byteAt F j := by
  simp [byteAt, flipBit, List.getD_eq_getElem?_getD, h]

theorem byteAt_flipBit_ne {F : List Byte} {k : Nat} (h : k < 8 * F.length) :
    byteAt (flipBit F k) (k / 8) ≠ byteAt F (k / 8) := by
  have hlt : k / 8 < F.length := by omega
  rw [byteAt_eq_getElem (by rwa [length_flipBit]), byteAt_eq_getElem hlt]
  simpa [flipBit, List.getElem_modify] using xor_bit_ne F[k / 8] k

theorem take_flipBit (F : List Byte) (k n : Nat) : (flipBit F k).take n = flipBit (F.take n) k := List.take_modify ..

theorem take_flipBit_of_le (F : List Byte) {k n : Nat} (h : n ≤ k / 8) : (flipBit F k).take n = F.take n := by
  rw [take_flipBit, flipBit, List.modify_eq_self (by rw [List.length_take]; omega)]

theorem drop_flipBit (F : List Byte) {k n : Nat} (h : 8 * n ≤ k) : (flipBit F k).drop n = flipBit (F.drop n) (k - 8 * n) := by
  rw [flipBit, List.drop_modify_of_ge _ _ _ _ (by omega), flipBit, show (k - 8 * n) / 8 = k / 8 - n by omega,
    show (k - 8 * n) % 8 = k % 8 by omega]

/-! ## Both CRCs notice a flipped bit -/

theorem injective_of_xor {w : Nat} {f : BitVec w → BitVec w} (hxor : ∀ a b, f (a ^^^ b) = f a ^^^ f b)
    (hzero : ∀ a, f a = 0#w → a = 0#w) : Function.Injective f := by
  intro a b h
  have : f (a ^^^ b) = 0#w := by rw [hxor, h, BitVec.xor_self]
  exact BitVec.xor_eq_zero_iff.1 (hzero _ this)

theorem crc8Rounds_injective : Function.Injective crc8Round^[8] :=
  (injective_of_xor crc8Round_xor crc8Round_eq_zero).iterate 8

theorem crc16Rounds_injective : Function.Injective crc16Round^[8] :=
  (injective_of_xor crc16Round_xor crc16Round_eq_zero).iterate 8

theorem crc8Step_injective_acc (b : Byte) : Function.Injective (crc8Step · b) :=
  fun _ _ h => (BitVec.xor_left_inj _).1 (crc8Rounds_injective h)

theorem crc8Step_injective_byte (acc : Byte) : Function.Injective (crc8Step acc) :=
  fun _ _ h => (BitVec.xor_right_inj _).1 (crc8Rounds_injective h)

theorem crc16Step_injective_acc (b : Byte) : Function.Injective (crc16Step · b) :=
  fun _ _ h => (BitVec.xor_left_inj _).1 (crc16Rounds_injective h)

theorem crc16Step_injective_byte (acc : Half) : Function.Injective (crc16Step acc) := by
  intro a b h
  have henter := congrArg BitVec.toNat ((BitVec.xor_right_inj _).1 (crc16Rounds_injective h))
  rw [zeroExtend_shiftLeft_eight, zeroExtend_shiftLeft_eight, BitVec.toNat_ofNat, BitVec.toNat_ofNat] at henter
  have ha := a.isLt
  have hb := b.isLt
  exact BitVec.eq_of_toNat_eq (by omega)

/-- A fold by a step that loses nothing of the accumulator loses nothing of its start. -/
theorem foldl_injective {α β : Type} {step : α → β → α} (hacc : ∀ b, Function.Injective (step · b)) (B : List β) :
    Function.Injective (B.foldl step) := by
  induction B with
  | nil => exact Function.injective_id
  | cons b B ih => exact ih.comp (hacc b)

/-- Nor does it lose a change of one element, if the step loses nothing of the element either. -/
theorem foldl_modify_ne {α β : Type} {step : α → β → α} (hacc : ∀ b, Function.Injective (step · b))
    (helem : ∀ a, Function.Injective (step a)) {f : β → β} (hf : ∀ b, f b ≠ b) (B : List β) (i : Nat) (acc : α)
    (hi : i < B.length) : (B.modify i f).foldl step acc ≠ B.foldl step acc := by
  induction B generalizing i acc with
  | nil => cases hi
  | cons b B ih =>
    cases i with
    | zero => exact fun h => hf b (helem acc (foldl_injective hacc B h))
    | succ i => exact ih i (step acc b) (Nat.lt_of_succ_lt_succ hi)

theorem crc8_flipBit_ne {B : List Byte} {k : Nat} (h : k < 8 * B.length) : crc8 (flipBit B k) ≠ crc8 B :=
  foldl_modify_ne crc8Step_injective_acc crc8Step_injective_byte (xor_bit_ne · k) B _ _ (by omega)

theorem crc16_flipBit_ne {B : List Byte} {k : Nat} (h : k < 8 * B.length) : crc16 (flipBit B k) ≠ crc16 B :=
  foldl_modify_ne crc16Step_injective_acc crc16Step_injective_byte (xor_bit_ne · k) B _ _ (by omega)

/-! ## The row of R67 that the flipped frame breaks first -/

/-- Rows 1 to 8 of R67 look at nothing but the length and the eight header bytes. -/
theorem illegalRow_congr_of_header {ids : Ids} {F G : List Byte} (hlen : F.length = G.length)
    (hhead : F.take 8 = G.take 8) {row : Nat} (hrow : row ≤ 8) : IllegalRow ids F row ↔ IllegalRow ids G row := by
  have hbyte : ∀ j < 8, byteAt F j = byteAt G j := fun j hj => by
    rw [← byteAt_take F 8 j hj, hhead, byteAt_take G 8 j hj]
  have hbody : F.take 7 = G.take 7 := by
    simpa [List.take_take] using congrArg (List.take 7) hhead
  interval_cases row <;>
    simp only [IllegalRow, hlen, hbody, hbyte 0, hbyte 1, hbyte 2, hbyte 3, hbyte 4, hbyte 5, hbyte 6, hbyte 7, Nat.reduceLT]

theorem not_illegalRow_zero (ids : Ids) (F : List Byte) : ¬ IllegalRow ids F 0 := id

theorem not_illegalRow_one_flipBit {ids : Ids} {F : List Byte} (h : Legal ids F) (k : Nat) :
    ¬ IllegalRow ids (flipBit F k) 1 := by
  have hlen : ¬ F.length < 8 := h 1
  simpa only [IllegalRow, length_flipBit] using hlen

theorem firstIllegal_flipBit_start {ids : Ids} {F : List Byte} {k : Nat} (h : Legal ids F) (hk : k < 8) :
    FirstIllegal ids (flipBit F k) 2 := by
  have hlen : ¬ F.length < 8 := h 1
  have hstart : byteAt F 0 = 0x69#8 := not_not.1 (h 2)
  refine ⟨?breaks, fun row hrow => ?before⟩
  case breaks =>
    have hne := byteAt_flipBit_ne (F := F) (k := k) (by omega)
    rwa [Nat.div_eq_of_lt hk, hstart] at hne
  case before =>
    interval_cases row
    · exact not_illegalRow_zero ids _
    · exact not_illegalRow_one_flipBit h k

/-- The flipped bit is in the bytes the CRC-8 covers, or it is in the CRC-8. -/
theorem firstIllegal_flipBit_header {ids : Ids} {F : List Byte} {k : Nat} (h : Legal ids F) (hlo : 8 ≤ k) (hhi : k < 64) :
    FirstIllegal ids (flipBit F k) 3 := by
  have hlen : ¬ F.length < 8 := h 1
  have hstart : byteAt F 0 = 0x69#8 := not_not.1 (h 2)
  have hcheck : byteAt F 7 = crc8 (F.take 7) := not_not.1 (h 3)
  refine ⟨?breaks, fun row hrow => ?before⟩
  case breaks =>
    show byteAt (flipBit F k) 7 ≠ crc8 ((flipBit F k).take 7)
    by_cases hbody : k < 56
    · rw [byteAt_flipBit_of_ne F (by omega), take_flipBit, hcheck]
      exact (crc8_flipBit_ne (by rw [List.length_take]; omega)).symm
    · rw [take_flipBit_of_le F (by omega), ← hcheck, ← show k / 8 = 7 by omega]
      exact byteAt_flipBit_ne (by omega)
  case before =>
    interval_cases row
    · exact not_illegalRow_zero ids _
    · exact not_illegalRow_one_flipBit h k
    · exact not_not.2 ((byteAt_flipBit_of_ne F (by omega)).trans hstart)

/-- Row 9 with the two bytes of the checksum read as the number they are (R56). -/
theorem illegalRow_nine_iff (ids : Ids) (F : List Byte) :
    IllegalRow ids F 9 ↔ be16 (byteAt F (6 + (byteAt F 6).toNat)) (byteAt F (7 + (byteAt F 6).toNat)) ≠
      crc16 ((F.drop 8).take ((byteAt F 6).toNat - 2)) :=
  not_congr (be16_eq_iff ..).symm

/-- The flipped bit is in the bytes the CRC-16 covers, or it is in the CRC-16. -/
theorem firstIllegal_flipBit_soft {ids : Ids} {F : List Byte} {k : Nat} (h : Legal ids F) (hlo : 64 ≤ k)
    (hhi : k < 8 * (8 + (byteAt F 6).toNat)) : FirstIllegal ids (flipBit F k) 9 := by
  obtain ⟨hmin, hfits⟩ := h.length
  have hcheck := not_not.1 (mt (illegalRow_nine_iff ids F).2 (h 9))
  have hdeclared : byteAt (flipBit F k) 6 = byteAt F 6 := byteAt_flipBit_of_ne F (by omega)
  refine ⟨?breaks, fun row hrow => ?before⟩
  case breaks =>
    rw [illegalRow_nine_iff, hdeclared, drop_flipBit F (by omega)]
    generalize (byteAt F 6).toNat = len at *
    by_cases hbody : k < 8 * (6 + len)
    · rw [byteAt_flipBit_of_ne F (by omega), byteAt_flipBit_of_ne F (by omega), take_flipBit, hcheck]
      exact (crc16_flipBit_ne (by rw [List.length_take, List.length_drop]; omega)).symm
    · have hchanged := byteAt_flipBit_ne (F := F) (k := k) (by omega)
      rw [take_flipBit_of_le _ (by omega), ← hcheck, be16_eq_le16, be16_eq_le16, Ne, le16_inj]
      rintro ⟨hlow, hhigh⟩
      obtain hk | hk : k / 8 = 6 + len ∨ k / 8 = 7 + len := by omega
      · exact hchanged (hk ▸ hhigh)
      · exact hchanged (hk ▸ hlow)
  case before =>
    rw [illegalRow_congr_of_header (length_flipBit F k) (take_flipBit_of_le F (by omega)) (Nat.le_of_lt_succ hrow)]
    exact h row

/-! ## PROCESS_ONE on the flipped frame -/

theorem exec_processOne_of_admits {s : State} {buffer : List Byte} (h : s.Admits true buffer.length) (allowPartial : Bool) :
    exec (.processOne buffer allowPartial) s = .next (s.spoilAcc8.spoilAcc16.one buffer allowPartial) :=
  State.perform_of_admits h _

theorem one_of_raised {s : State} {buffer : List Byte} {allowPartial : Bool} {k : ErrorKind}
    (h : processFrame s.ids buffer allowPartial = .raised k) : s.one buffer allowPartial = s.raise k := by
  rw [State.one, h]

/-- PROCESS_ONE emits an MSG only for a legal frame, and its bytes are the frame's. -/
theorem legal_of_one_msg {s : State} {buffer raw : List Byte} {allowPartial : Bool} {h : HardHeader} {sh : SoftMessage}
    (hmsg : (s.one buffer allowPartial).outputs = s.outputs ++ [Output.msg h sh raw]) :
    Legal s.ids buffer ∧ raw = buffer.take (8 + (byteAt buffer 6).toNat) := by
  unfold State.one at hmsg
  split at hmsg
  case h_1 => simp at hmsg
  case h_2 => simp at hmsg
  case h_3 hd =>
    obtain ⟨hlegal, -, -, hn, hraw, -⟩ := legal_of_delivered hd
    simp only [State.emit_outputs, List.append_cancel_left_eq, List.cons.injEq, Output.msg.injEq, and_true] at hmsg
    obtain ⟨-, -, rfl⟩ := hmsg
    exact ⟨hlegal, hn ▸ hraw⟩

theorem outputs_exec_processOne_of_firstIllegal {s : State} {buffer : List Byte} {row : Nat}
    (hadmits : s.Admits true buffer.length) (h : FirstIllegal s.ids buffer row) (hrow : row ≠ 7) (allowPartial : Bool) :
    outputsOf (exec (.processOne buffer allowPartial) s) = s.outputs ++ [Output.error (rowKind row)] := by
  have hraised : processFrame s.ids buffer allowPartial = .raised (rowKind row) := by
    rw [processFrame_of_firstIllegal h, if_neg (fun hw => hrow hw.1)]
  rw [exec_processOne_of_admits hadmits, one_of_raised (s := s.spoilAcc8.spoilAcc16) hraised]
  rfl

/-- Settles O25: a delivered frame is legal and fills the buffer, so the flipped bit lies in the start byte, elsewhere in the
hard header or in the soft message, and each breaks its own row of R67 first. -/
theorem singleBitFlipIsNeverDelivered : Obligations.SingleBitFlipIsNeverDelivered := by
  intro s F h sh k allowPartial hadmits hmsg hk
  rw [exec_processOne_of_admits hadmits] at hmsg
  obtain ⟨hlegal, hraw⟩ := legal_of_one_msg (s := s.spoilAcc8.spoilAcc16) hmsg
  have hwhole : F.length ≤ 8 + (byteAt F 6).toNat := List.take_eq_self_iff F |>.1 hraw.symm
  have hadmits' : s.Admits true (flipBit F k).length := by rwa [length_flipBit]
  by_cases hstart : k < 8
  · rw [if_pos hstart]
    exact outputs_exec_processOne_of_firstIllegal hadmits' (firstIllegal_flipBit_start hlegal hstart) (by decide) _
  by_cases hheader : k < 64
  · rw [if_neg hstart, if_pos hheader]
    exact outputs_exec_processOne_of_firstIllegal hadmits'
      (firstIllegal_flipBit_header hlegal (Nat.le_of_not_lt hstart) hheader) (by decide) _
  · rw [if_neg hstart, if_neg hheader]
    exact outputs_exec_processOne_of_firstIllegal hadmits'
      (firstIllegal_flipBit_soft hlegal (Nat.le_of_not_lt hheader) (by omega)) (by decide) _

end Sys2Proof.Proofs
end

section
/-! The frame encoder and its round trip (42_frame_encode R130, R135, R136): the bytes of a built frame and its two checksums,
and what the four steps and PROCESS_ONE make of a legal frame that fills its buffer. -/

namespace Sys2Proof.Proofs

open Sys2Proof Sys2Proof.Machine

/-! ## The built frame -/

/-- A hard header and the soft message it is computed for: what `buildFrame` returns (R132). -/
def frameAround (toHard fromHard : Byte) (p : List Byte) : List Byte := headerFor toHard fromHard p ++ p

theorem drop_frameAround (toHard fromHard : Byte) (p : List Byte) : (frameAround toHard fromHard p).drop 8 = p := rfl

theorem length_frameAround (toHard fromHard : Byte) (p : List Byte) :
    (frameAround toHard fromHard p).length = 8 + p.length := List.length_append ..

theorem byteAt_frameAround_add (toHard fromHard : Byte) (p : List Byte) (k : Nat) :
    byteAt (frameAround toHard fromHard p) (8 + k) = byteAt p k := by
  rw [← byteAt_drop, drop_frameAround]

/-- `payload_length` is one byte, so it is the message's length only up to 255 (R133). -/
theorem toNat_declared_frameAround (toHard fromHard : Byte) {p : List Byte} (hp : p.length ≤ 255) :
    (byteAt (frameAround toHard fromHard p) 6).toNat = p.length :=
  BitVec.toNat_ofNat .. |>.trans (Nat.mod_eq_of_lt (by omega))

theorem hardChecksum_frameAround (toHard fromHard : Byte) (p : List Byte) :
    byteAt (frameAround toHard fromHard p) 7 = crc8 ((frameAround toHard fromHard p).take 7) := rfl

theorem length_softWithCrc (body : List Byte) : (softWithCrc body).length = body.length + 2 := List.length_append ..

theorem byteAt_softWithCrc_add (body : List Byte) (k : Nat) :
    byteAt (softWithCrc body) (body.length + k) = byteAt [hi8 (crc16 body), lo8 (crc16 body)] k := by
  rw [← byteAt_drop, softWithCrc, List.drop_left]

/-- The last two bytes are the CRC-16, high byte first, of the message before them (R132, R136). -/
theorem softChecksum_frameAround (toHard fromHard : Byte) {body : List Byte} (hbody : body.length ≤ 253) {len : Nat}
    (hlen : (byteAt (frameAround toHard fromHard (softWithCrc body)) 6).toNat = len) :
    be16 (byteAt (frameAround toHard fromHard (softWithCrc body)) (6 + len))
        (byteAt (frameAround toHard fromHard (softWithCrc body)) (7 + len)) =
      crc16 (((frameAround toHard fromHard (softWithCrc body)).drop 8).take (len - 2)) := by
  have hdeclared : len = body.length + 2 := by
    rw [← hlen, toNat_declared_frameAround _ _ (by rw [length_softWithCrc]; omega), length_softWithCrc]
  have hhigh := byteAt_softWithCrc_add body 0
  have hlow := byteAt_softWithCrc_add body 1
  rw [← byteAt_frameAround_add toHard fromHard] at hhigh hlow
  rw [show 6 + len = 8 + (body.length + 0) by omega, show 7 + len = 8 + (body.length + 1) by omega, hhigh, hlow,
    drop_frameAround, show len - 2 = body.length by omega, softWithCrc, List.take_left]
  exact be16_hi8_lo8 _

section Fields

variable (toHard fromHard : Byte) (toLogical fromLogical : Half) (fn : Byte) (start : Half) (count : Byte) (data : List Byte)

/-- The bytes of a built frame (R132), where nothing is refused. -/
def builtFrame : List Byte :=
  frameAround toHard fromHard (softWithCrc (softBody toLogical fromLogical fn start count data))

theorem length_softBody : (softBody toLogical fromLogical fn start count data).length = 10 + data.length :=
  List.length_append ..

theorem length_builtFrame :
    (builtFrame toHard fromHard toLogical fromLogical fn start count data).length = 20 + data.length := by
  rw [builtFrame, length_frameAround, length_softWithCrc, length_softBody]
  omega

theorem buildFrame_eq : buildFrame toHard fromHard toLogical fromLogical fn start count data =
    if 243 < data.length then none
    else some (builtFrame toHard fromHard toLogical fromLogical fn start count data) := by
  have hlen : 255 < (softWithCrc (softBody toLogical fromLogical fn start count data)).length ↔ 243 < data.length := by
    rw [length_softWithCrc, length_softBody]
    omega
  simp only [buildFrame, hlen]
  rfl

variable {toHard fromHard toLogical fromLogical fn start count data}

theorem buildFrame_of_le (h : data.length ≤ 243) : buildFrame toHard fromHard toLogical fromLogical fn start count data =
    some (builtFrame toHard fromHard toLogical fromLogical fn start count data) := by
  rw [buildFrame_eq, if_neg (Nat.not_lt.2 h)]

theorem toNat_declared_builtFrame (h : data.length ≤ 243) :
    (byteAt (builtFrame toHard fromHard toLogical fromLogical fn start count data) 6).toNat = 12 + data.length := by
  have hlen : (softWithCrc (softBody toLogical fromLogical fn start count data)).length = 12 + data.length := by
    rw [length_softWithCrc, length_softBody]
    omega
  rw [builtFrame, toNat_declared_frameAround _ _ (by omega), hlen]

/-- R136 for every frame `buildFrame` returns. -/
theorem checksums_of_buildFrame {F : List Byte}
    (h : buildFrame toHard fromHard toLogical fromLogical fn start count data = some F) :
    byteAt F 7 = crc8 (F.take 7) ∧
    be16 (byteAt F (6 + (byteAt F 6).toNat)) (byteAt F (7 + (byteAt F 6).toNat)) =
      crc16 ((F.drop 8).take ((byteAt F 6).toNat - 2)) := by
  rw [buildFrame_eq] at h
  split at h
  case isTrue => cases h
  case isFalse hle =>
    cases h
    exact ⟨hardChecksum_frameAround _ _ _, softChecksum_frameAround _ _ (by rw [length_softBody]; omega) rfl⟩

theorem length_builtFrame_eq_declared (h : data.length ≤ 243) :
    (builtFrame toHard fromHard toLogical fromLogical fn start count data).length =
      8 + (byteAt (builtFrame toHard fromHard toLogical fromLogical fn start count data) 6).toNat := by
  rw [length_builtFrame, toNat_declared_builtFrame h]
  omega

theorem configured_of_bound {ids : Ids} {a : Byte} {v : Half} (h : ids.Bound a v) : ids.Configured a :=
  h.imp And.left fun hdev => hdev.2.1

/-- A built frame breaks no row of R67 under ids that bind its two addresses to its two logical ids. The
cases are the rows 1 to 11, in the table's order. -/
theorem legal_builtFrame {ids : Ids} (hlen : data.length ≤ 243) (hne : toHard ≠ fromHard)
    (hto : ids.Bound toHard toLogical) (hfrom : ids.Bound fromHard fromLogical) :
    Legal ids (builtFrame toHard fromHard toLogical fromLogical fn start count data) := by
  have hbytes := length_builtFrame toHard fromHard toLogical fromLogical fn start count data
  have hdeclared : (byteAt (builtFrame toHard fromHard toLogical fromLogical fn start count data) 6).toNat = 12 + data.length :=
    toNat_declared_builtFrame hlen
  intro row hrow
  obtain ⟨hlo, hhi⟩ := illegalRow_range hrow
  interval_cases row
  · simp only [IllegalRow] at hrow; omega
  · exact hrow rfl
  · exact hrow rfl
  · exact hrow ⟨rfl, rfl, rfl⟩
  · exact hrow.elim (· (configured_of_bound hto)) (· (configured_of_bound hfrom))
  · exact hne hrow
  · simp only [IllegalRow] at hrow; omega
  · simp only [IllegalRow] at hrow; omega
  · exact (illegalRow_nine_iff ids _).1 hrow (checksums_of_buildFrame (buildFrame_of_le hlen)).2
  · exact hrow ⟨rfl, rfl⟩
  · exact hrow.elim (· ((le16_lo8_hi8 toLogical).symm ▸ hto)) (· ((le16_lo8_hi8 fromLogical).symm ▸ hfrom))

theorem restMessage_messageAt_builtFrame (hlen : data.length ≤ 243) :
    (messageAt (builtFrame toHard fromHard toLogical fromLogical fn start count data)).restMessage = data := by
  have hdeclared : (byteAt (builtFrame toHard fromHard toLogical fromLogical fn start count data) 6).toNat = 12 + data.length :=
    toNat_declared_builtFrame hlen
  show ((builtFrame toHard fromHard toLogical fromLogical fn start count data).drop 18).take _ = data
  rw [hdeclared, Nat.add_sub_cancel_left]
  exact List.take_left ..

end Fields

theorem wordBytes_eq_bytesOfHalves (values : List Half) : wordBytes values = bytesOfHalves values := by
  induction values with
  | nil => rfl
  | cons v rest ih => rw [bytesOfHalves, ← ih]; rfl

/-! ## The builders -/

theorem exec_buildRead_eq_perform (d c : Byte) (dl cl start : Half) (count : Byte) (s : State) :
    exec (.buildRead d c dl cl start count) s = s.perform false 0 (s.built (buildFrame d c dl cl 0x40#8 start count [])) := rfl

theorem exec_buildWrite_eq_perform (d c : Byte) (dl cl start : Half) (count : Byte) (values : List Half) (s : State) :
    exec (.buildWrite d c dl cl start count values) s =
      s.perform false 0 (s.built (buildFrame d c dl cl 0x60#8 start count (bytesOfHalves values))) := rfl

theorem perform_built_of_idle {s : State} (hidle : s.activity = .idle) (F : List Byte) :
    s.perform false 0 (s.built (some F)) = .next (s.spoilAcc8.spoilAcc16.finish (.frame F)) :=
  State.perform_of_admits (State.admits_plain hidle) _

/-- A builder that delivers a frame was not refused, and the frame is `buildFrame`'s. -/
theorem eq_some_of_perform_built {s : State} {frame : Option (List Byte)} {F : List Byte}
    (h : outputsOf (s.perform false 0 (s.built frame)) = s.outputs ++ [Output.value (.frame F)]) : frame = some F := by
  rcases s.perform_cases false 0 (s.built frame) with ⟨-, he⟩ | ⟨why, -, he⟩
  · rw [he] at h
    cases frame with
    | none => simp [State.built] at h
    | some bytes => simpa [State.built] using h
  · simp [he] at h

/-- Settles O33: a frame that a builder delivers is one that `buildFrame` returns, and those end their two parts with the two
checksums. -/
theorem builtFramesCarryTheirChecksums : Obligations.BuiltFramesCarryTheirChecksums := by
  rintro s i F (⟨d, c, dl, cl, start, count, rfl⟩ | ⟨d, c, dl, cl, start, count, values, rfl⟩) hF
  · rw [exec_buildRead_eq_perform] at hF
    exact checksums_of_buildFrame (eq_some_of_perform_built hF)
  · rw [exec_buildWrite_eq_perform] at hF
    exact checksums_of_buildFrame (eq_some_of_perform_built hF)

theorem exec_buildRead_of_idle {s : State} (hidle : s.activity = .idle) (d c : Byte) (dl cl start : Half) (count : Byte) :
    exec (.buildRead d c dl cl start count) s =
      .next (s.spoilAcc8.spoilAcc16.finish (.frame (builtFrame d c dl cl 0x40#8 start count []))) := by
  rw [exec_buildRead_eq_perform, buildFrame_of_le (Nat.zero_le _), perform_built_of_idle hidle]

/-- Row 6 of R67 comes before the wait of row 7, so a frame with one address twice always raises an error kind. -/
theorem processFrame_raises_of_collision {F : List Byte} (h : byteAt F 1 = byteAt F 2) (ids : Ids) (allowPartial : Bool) :
    ∃ k, processFrame ids F allowPartial = .raised k := by
  have hsix : IllegalRow ids F 6 := h
  rcases legal_or_firstIllegal ids F with hlegal | ⟨row, -, hfirst⟩
  · exact absurd hsix (hlegal 6)
  · have hrow : ¬ 6 < row := fun hlt => hfirst.2 6 hlt hsix
    exact ⟨rowKind row, by rw [processFrame_of_firstIllegal hfirst, if_neg (by omega)]⟩

/-- Settles O30: an idle block always admits BUILD_READ, and its frame is `builtFrame` with no data; one address twice is row
6 of R67. -/
theorem buildReadWritesTheRequestFrame : Obligations.BuildReadWritesTheRequestFrame := by
  refine ⟨Laws.HeadByte.buildRead, ?effect, ?scenario⟩
  case effect =>
    intro s d c dl cl start count hidle
    refine ⟨_, _, rfl, rfl, rfl, fun hdc => processFrame_raises_of_collision hdc, ?_⟩
    rw [exec_buildRead_of_idle hidle, State.finish_of_idle (s := s.spoilAcc8.spoilAcc16) hidle]
    exact ⟨_, _, _, rfl⟩
  case scenario =>
    intro s hidle
    have hframe : builtFrame 2#8 1#8 2#16 1#16 0x40#8 120#16 92#8 [] = scenarioFrame := by decide +kernel
    rw [exec_buildRead_of_idle hidle, hframe]
    rfl

/-! ## The decoder on a legal frame that fills its buffer -/

theorem exec_validateHard_of_admits {s : State} (h : s.Admits true 0) (hd : HardHeader) :
    exec (.validateHard hd) s = .next (s.verdict (hardError s.ids hd)) :=
  State.perform_of_admits h _

theorem exec_validateSoft_of_admits {s : State} (h : s.Admits true 0) (hd : HardHeader) (sh : SoftMessage) :
    exec (.validateSoft hd sh) s = .next (s.verdict (softError s.ids hd sh)) :=
  State.perform_of_admits h _

theorem admits_of_le {s : State} {readsIds : Bool} {len len' : Nat} (h : s.Admits true len) (hle : len' ≤ len) :
    s.Admits readsIds len' :=
  ⟨h.idle, fun _ => h.ids rfl, fun max hmax => hle.trans (h.fits max hmax)⟩

/-- R105: a delivered frame has passed the four steps. -/
theorem steps_of_delivered {ids : Ids} {buffer raw rest : List Byte} {allowPartial : Bool} {h : HardHeader}
    {sh : SoftMessage} {n : Nat} (hd : processFrame ids buffer allowPartial = .delivered h sh raw n rest) :
    parseHard buffer = .ok h ∧ hardError ids h = none ∧
      parseSoft (slice buffer 8 (8 + h.payloadLength.toNat)) h.payloadLength = .ok sh ∧ softError ids h sh = none := by
  unfold processFrame at hd
  split at hd
  case h_1 => cases hd
  case h_2 hparse =>
    split at hd
    case h_1 => cases hd
    case h_2 hhard =>
      dsimp only at hd
      split at hd
      case isTrue => cases hd
      case isFalse =>
        split at hd
        case h_1 => cases hd
        case h_2 hsoft =>
          split at hd
          case h_1 => cases hd
          case h_2 hverdict =>
            cases hd
            exact ⟨hparse, hhard, hsoft, hverdict⟩

section WholeFrame

variable {s : State} {F : List Byte} (hadmits : s.Admits true F.length) (hlegal : Legal s.ids F)
  (hwhole : F.length = 8 + (byteAt F 6).toNat)
include hadmits hlegal

theorem outputs_exec_parseHard_of_legal :
    outputsOf (exec (.parseHard F) s) = s.outputs ++ [Output.value (.header (headerAt F))] := by
  obtain ⟨hparse, -⟩ := steps_of_delivered (processFrame_of_legal hlegal false)
  rw [exec_parseHard_of_admits (admits_of_le hadmits le_rfl), hparse]
  rfl

theorem outputs_exec_validateHard_of_legal :
    outputsOf (exec (.validateHard (headerAt F)) s) = s.outputs ++ [Output.value .ok] := by
  obtain ⟨-, hhard, -⟩ := steps_of_delivered (processFrame_of_legal hlegal false)
  rw [exec_validateHard_of_admits (admits_of_le hadmits (Nat.zero_le _)), hhard]
  rfl

theorem outputs_exec_validateSoft_of_legal :
    outputsOf (exec (.validateSoft (headerAt F) (messageAt F)) s) = s.outputs ++ [Output.value .ok] := by
  obtain ⟨-, -, -, hverdict⟩ := steps_of_delivered (processFrame_of_legal hlegal false)
  rw [exec_validateSoft_of_admits (admits_of_le hadmits (Nat.zero_le _)), hverdict]
  rfl

include hwhole

theorem outputs_exec_parseSoft_of_legal :
    outputsOf (exec (.parseSoft (F.drop 8) (byteAt F 6)) s) = s.outputs ++ [Output.value (.message (messageAt F))] := by
  obtain ⟨-, -, hsoft, -⟩ := steps_of_delivered (processFrame_of_legal hlegal false)
  have hparse : parseSoft (F.drop 8) (byteAt F 6) = .ok (messageAt F) := by
    rwa [slice, show 8 + (headerAt F).payloadLength.toNat = F.length from hwhole.symm, List.take_length] at hsoft
  rw [exec_parseSoft_of_admits (admits_of_le hadmits (by rw [List.length_drop]; omega)), hparse]
  rfl

theorem exec_processOne_of_legal (allowPartial : Bool) : exec (.processOne F allowPartial) s =
    .next (s.spoilAcc8.spoilAcc16.emit (headerAt F) (messageAt F) F (.result (.consumed F.length []))) := by
  have hdelivered := processFrame_of_legal hlegal allowPartial
  rw [← hwhole, List.take_length, List.drop_length] at hdelivered
  rw [exec_processOne_of_admits hadmits, State.one, State.spoilAcc16_ids, State.spoilAcc8_ids, hdelivered]

end WholeFrame

/-! ## The round trip -/

/-- Both requests are one `buildFrame`, with the values as its data (R130, R131). -/
theorem exec_request_of_idle {s : State} (hidle : s.activity = .idle) {c d : Byte} {cl dl start : Half} {count : Byte}
    {values : List Half} {i : Instr} {fn : Byte} (hvalues : values.length ≤ 121)
    (hi : (i = .buildWrite d c dl cl start count values ∧ fn = 0x60#8) ∨
      (i = .buildRead d c dl cl start count ∧ fn = 0x40#8 ∧ values = [])) :
    exec i s =
      .next (s.spoilAcc8.spoilAcc16.finish (.frame (builtFrame d c dl cl fn start count (bytesOfHalves values)))) := by
  obtain ⟨rfl, rfl⟩ | ⟨rfl, rfl, rfl⟩ := hi
  · rw [exec_buildWrite_eq_perform, buildFrame_of_le (by rw [length_bytesOfHalves]; omega), perform_built_of_idle hidle]
  · exact exec_buildRead_of_idle hidle ..

theorem bound_conHard (c d : Byte) (cl dl : Half) : (Ids.mk c d cl dl).Bound c cl := .inl ⟨rfl, rfl⟩

theorem bound_devHard {c d : Byte} (h : c ≠ d) (cl dl : Half) : (Ids.mk c d cl dl).Bound d dl := .inr ⟨h.symm, rfl, rfl⟩

/-- Settles O34: under the configured ids a built frame is legal in either direction and fills its buffer, so the four steps
and PROCESS_ONE accept it, and the message read from it holds the operands. -/
theorem builtFramesDecodeToTheirOperands : Obligations.BuiltFramesDecodeToTheirOperands := by
  intro s c d cl dl start count values i fn hadmits hids hne hvalues hi
  have hidle : s.activity = .idle := hadmits.idle
  have hcon : s.ids.Bound c cl := hids ▸ bound_conHard c d cl dl
  have hdev : s.ids.Bound d dl := hids ▸ bound_devHard hne cl dl
  refine ⟨?request, ?otherDirection⟩
  case request =>
    have hdata : (bytesOfHalves values).length ≤ 242 := by rw [length_bytesOfHalves]; omega
    have hmax : (bytesOfHalves values).length ≤ 243 := by omega
    have hlegal : Legal s.ids (builtFrame d c dl cl fn start count (bytesOfHalves values)) :=
      legal_builtFrame hmax hne.symm hdev hcon
    have hfits : s.Admits true (builtFrame d c dl cl fn start count (bytesOfHalves values)).length :=
      admits_of_le hadmits (by rw [length_builtFrame]; omega)
    refine ⟨_, _, _, _, congrArg outputsOf (exec_request_of_idle hidle hvalues hi),
      outputs_exec_parseHard_of_legal hfits hlegal, outputs_exec_validateHard_of_legal hfits hlegal,
      outputs_exec_parseSoft_of_legal hfits hlegal (length_builtFrame_eq_declared hmax),
      outputs_exec_validateSoft_of_legal hfits hlegal, le16_lo8_hi8 start, rfl, rfl, ?rest,
      exec_processOne_of_legal hfits hlegal (length_builtFrame_eq_declared hmax) false, rfl, rfl⟩
    case rest => rw [restMessage_messageAt_builtFrame hmax, wordBytes_eq_bytesOfHalves]
  case otherDirection =>
    have hlegal : Legal s.ids (builtFrame c d cl dl 0x40#8 start count []) :=
      legal_builtFrame (Nat.zero_le _) hne hcon hdev
    have hfits : s.Admits true (builtFrame c d cl dl 0x40#8 start count []).length :=
      admits_of_le hadmits (by rw [length_builtFrame]; decide)
    exact ⟨_, _, _, congrArg outputsOf (exec_buildRead_of_idle hidle ..),
      congrArg outputsOf (exec_processOne_of_legal hfits hlegal (length_builtFrame_eq_declared (Nat.zero_le _)) false)⟩

end Sys2Proof.Proofs
end

section
/-! The id registers (43_config_and_host R150): SET_IDS is their one writer, only the validators and what runs them read them,
and equal hard ids leave no frame that validates. -/

namespace Sys2Proof.Proofs

open Sys2Proof Sys2Proof.Machine

/-! ## The one writer -/

theorem exec_setIds_of_idle {s : State} (h : s.activity = .idle) (ch dh : Byte) (cl dl : Half) :
    exec (.setIds ch dh cl dl) s = .next ((s.writeIds ⟨ch, dh, cl, dl⟩).finish .none) :=
  State.perform_of_admits (State.admits_plain h) _

/-- The four id registers and `IDS_WRITTEN` are in `t` what they are in `s`. -/
def SameIds (s t : State) : Prop := t.ids = s.ids ∧ t.idsWritten = s.idsWritten

theorem sameIds_finish (s : State) (v : Value) : SameIds s (s.finish v) := ⟨s.finish_ids v, s.finish_idsWritten v⟩

theorem sameIds_raise (s : State) (k : ErrorKind) : SameIds s (s.raise k) := ⟨s.raise_ids k, s.raise_idsWritten k⟩

theorem sameIds_refuse (s : State) (r : RefusalReason) : SameIds s (s.refuse r) := ⟨s.refuse_ids r, s.refuse_idsWritten r⟩

theorem sameIds_emit (s : State) (h : HardHeader) (sh : SoftMessage) (raw : List Byte) (next : Resume) :
    SameIds s (s.emit h sh raw next) := ⟨s.emit_ids h sh raw next, s.emit_idsWritten h sh raw next⟩

theorem sameIds_deliver (s : State) (r : Except ErrorKind Value) : SameIds s (s.deliver r) := by
  cases r with
  | ok v => exact sameIds_finish s v
  | error k => exact sameIds_raise s k

theorem sameIds_verdict (s : State) (e : Option ErrorKind) : SameIds s (s.verdict e) := by
  cases e with
  | none => exact sameIds_finish s .ok
  | some k => exact sameIds_raise s k

theorem sameIds_built (s : State) (frame : Option (List Byte)) : SameIds s (s.built frame) := by
  cases frame with
  | none => exact sameIds_refuse s .payloadTooLong
  | some bytes => exact sameIds_finish s.spoilAcc8.spoilAcc16 (.frame bytes)

theorem sameIds_loop (s : State) (sc : Scan) : SameIds s (s.loop sc) := by
  rcases loop_cases s sc with ⟨-, he⟩ | ⟨-, he⟩
  · rw [he]
    exact ⟨rfl, rfl⟩
  · rw [he]
    exact sameIds_finish s _

theorem sameIds_afterOne (s : State) (sc : Scan) (n : Nat) : SameIds s (s.afterOne sc n) := by
  unfold State.afterOne
  split
  case isTrue =>
    split
    case isTrue => exact sameIds_finish s _
    case isFalse => exact sameIds_raise s _
  case isFalse => exact sameIds_loop s _

theorem sameIds_one (s : State) (buffer : List Byte) (allowPartial : Bool) : SameIds s (s.one buffer allowPartial) := by
  unfold State.one
  split
  case h_1 => exact sameIds_raise s _
  case h_2 => exact sameIds_finish s _
  case h_3 => exact sameIds_emit s ..

theorem sameIds_turn (s : State) (sc : Scan) (bytes : List Byte) : SameIds s (s.turn sc bytes) := by
  unfold State.turn
  split
  case isTrue => exact sameIds_refuse { s with activity := .idle } .idsUnset
  case isFalse =>
    split
    case h_1 => exact sameIds_raise s _
    case h_2 => exact sameIds_afterOne s sc 0
    case h_3 => exact sameIds_emit s ..

/-- A request leaves the ids as its operation does; a refusal leaves them too. -/
theorem sameIds_of_perform {s t done : State} {readsIds : Bool} {len : Nat} (h : s.perform readsIds len done = .next t)
    (hdone : SameIds s done) : SameIds s t := by
  rcases State.perform_next h with ⟨-, rfl⟩ | ⟨why, -, rfl⟩
  · exact hdone
  · exact sameIds_refuse s why

theorem sameIds_of_exec_buffer {i : Instr} {s t : State} (hspace : i.space = .buffer) (h : exec i s = .next t) :
    SameIds s t := by
  obtain ⟨sc, -, rfl⟩ := exec_buffer hspace h
  exact sameIds_turn s sc _

/-- 10_state R21's column of the ids: SET_IDS alone writes them. -/
theorem sameIds_of_exec {i : Instr} {s t : State} (hi : ∀ ch dh cl dl, i ≠ .setIds ch dh cl dl)
    (h : exec i s = .next t) : SameIds s t := by
  cases i with
  | setIds ch dh cl dl => exact absurd rfl (hi ch dh cl dl)
  | readReq | readResp | writePush | writeAck | frameOther => exact sameIds_of_exec_buffer rfl h
  | crc8Clr | crc8Byte | crc8Read | crc8Msg | crc16Clr | crc16Byte | crc16Read | crc16Msg =>
    exact sameIds_of_perform h ⟨rfl, rfl⟩
  | parseHard => exact sameIds_of_perform h (sameIds_deliver s.spoilAcc8 _)
  | parseSoft => exact sameIds_of_perform h (sameIds_deliver s.spoilAcc16 _)
  | validateHard | validateSoft => exact sameIds_of_perform h (sameIds_verdict s _)
  | processOne => exact sameIds_of_perform h (sameIds_one s.spoilAcc8.spoilAcc16 _ _)
  | processAll => exact sameIds_of_perform h (sameIds_loop s.spoilAcc8.spoilAcc16 _)
  | buildRead | buildWrite => exact sameIds_of_perform h (sameIds_built s _)

theorem exists_setIds_of_not_sameIds {i : Instr} {s t : State} (h : exec i s = .next t) (hids : ¬ SameIds s t) :
    ∃ ch dh cl dl, i = .setIds ch dh cl dl := by
  by_contra hnone
  exact hids (sameIds_of_exec (fun ch dh cl dl hi => hnone ⟨ch, dh, cl, dl, hi⟩) h)

/-! ## The readers -/

theorem outputs_deliver_congr {s s' : State} (h : s'.outputs = s.outputs) (r : Except ErrorKind Value) :
    (s'.deliver r).outputs = (s.deliver r).outputs := by
  cases r with
  | ok v => exact congrArg (· ++ [Output.value v]) h
  | error k => exact congrArg (· ++ [Output.error k]) h

theorem outputs_built_congr {s s' : State} (h : s'.outputs = s.outputs) (frame : Option (List Byte)) :
    (s'.built frame).outputs = (s.built frame).outputs := by
  cases frame with
  | none => exact congrArg (· ++ [Output.refused .payloadTooLong]) h
  | some bytes => exact congrArg (· ++ [Output.value (.frame bytes)]) h

/-- Whether a request is refused, and as what, does not depend on the values of the ids (60 R184). -/
theorem refusal_set_ids (s : State) (other : Ids) (readsIds : Bool) (len : Nat) :
    ({ s with ids := other } : State).refusal readsIds len = s.refusal readsIds len := rfl

theorem outputsOf_perform_set_ids {s done done' : State} {other : Ids} {readsIds : Bool} {len : Nat}
    (hdone : done'.outputs = done.outputs) :
    outputsOf (({ s with ids := other } : State).perform readsIds len done') = outputsOf (s.perform readsIds len done) := by
  unfold State.perform
  rw [refusal_set_ids]
  cases s.refusal readsIds len with
  | none => exact hdone
  | some why => rfl

/-- An operation that runs no validator delivers the same whatever the ids hold, SET_IDS included. -/
theorem outputsOf_exec_set_ids {i : Instr} (s : State) (other : Ids) (hspace : i.space = .command)
    (hhard : ∀ h, i ≠ .validateHard h) (hsoft : ∀ h m, i ≠ .validateSoft h m) (hone : ∀ b p, i ≠ .processOne b p)
    (hall : ∀ b p, i ≠ .processAll b p) : outputsOf (exec i { s with ids := other }) = outputsOf (exec i s) := by
  cases i with
  | readReq | readResp | writePush | writeAck | frameOther => cases hspace
  | validateHard h => exact absurd rfl (hhard h)
  | validateSoft h m => exact absurd rfl (hsoft h m)
  | processOne b p => exact absurd rfl (hone b p)
  | processAll b p => exact absurd rfl (hall b p)
  | crc8Clr | crc8Byte | crc8Read | crc8Msg | crc16Clr | crc16Byte | crc16Read | crc16Msg | setIds =>
    exact outputsOf_perform_set_ids rfl
  | parseHard | parseSoft => exact outputsOf_perform_set_ids (outputs_deliver_congr (by rfl) _)
  | buildRead | buildWrite => exact outputsOf_perform_set_ids (outputs_built_congr (by rfl) _)

/-! ## Equal hard ids -/

/-- The rows of VALIDATE_HARD come before the wait of row 7, so each of them raises an error kind in either mode. -/
theorem processFrame_raises_of_illegalRow {ids : Ids} {F : List Byte} {row : Nat} (h : IllegalRow ids F row) (hrow : row ≤ 6)
    (allowPartial : Bool) : ∃ k, processFrame ids F allowPartial = .raised k := by
  rcases legal_or_firstIllegal ids F with hlegal | ⟨first, -, hfirst⟩
  · exact absurd h (hlegal row)
  · have hle : first ≤ row := Nat.le_of_not_lt fun hlt => hfirst.2 row hlt h
    exact ⟨rowKind first, by rw [processFrame_of_firstIllegal hfirst, if_neg (by omega)]⟩

theorem eq_conHard_of_configured {ids : Ids} (heq : ids.conHard = ids.devHard) {a : Byte} (h : ids.Configured a) :
    a = ids.conHard :=
  h.elim id fun hdev => hdev.trans heq.symm

/-- With equal hard ids two configured addresses are one address: row 5 of R67 holds, or row 6. -/
theorem processFrame_raises_of_equal_hard_ids {ids : Ids} (heq : ids.conHard = ids.devHard) (F : List Byte)
    (allowPartial : Bool) : ∃ k, processFrame ids F allowPartial = .raised k := by
  by_cases hknown : ids.Configured (byteAt F 1) ∧ ids.Configured (byteAt F 2)
  · have hcollision : byteAt F 1 = byteAt F 2 :=
      (eq_conHard_of_configured heq hknown.1).trans (eq_conHard_of_configured heq hknown.2).symm
    exact processFrame_raises_of_collision hcollision ids allowPartial
  · have hfive : IllegalRow ids F 5 := not_and_or.1 hknown
    exact processFrame_raises_of_illegalRow hfive (by decide) allowPartial

/-! ## SET_IDS -/

/-- Settles O36: an idle block always admits SET_IDS, which writes the four ids and `IDS_WRITTEN`; an instruction after which
they differ is SET_IDS; the outputs of an operation that runs no validator are the same for any ids; equal hard ids make row
5 or row 6 of R67 hold of every frame. -/
theorem setIdsWritesAllFourIds : Obligations.SetIdsWritesAllFourIds := by
  refine ⟨Laws.HeadByte.setIds, ?effect, ?writer, ?readers, ?equal, _, exec_setIds_of_idle rfl .., rfl, rfl, rfl, rfl⟩
  case effect =>
    intro s ch dh cl dl hidle
    rw [exec_setIds_of_idle hidle, State.finish_of_idle (s := s.writeIds _) hidle]
    rfl
  case writer =>
    intro i s t h hchanged
    exact exists_setIds_of_not_sameIds h (not_and_or.2 hchanged)
  case readers => exact fun i s other => outputsOf_exec_set_ids s other
  case equal => exact fun ids buffer allowPartial heq => processFrame_raises_of_equal_hard_ids heq buffer allowPartial

end Sys2Proof.Proofs
end

section
/-! The reset input (70 R200): the step at which the host asserts it, and the block it leaves. -/

namespace Sys2Proof.Proofs

open Sys2Proof Sys2Proof.Machine

/-- 70 R200: whatever the block was doing, the step at which reset is asserted is `State.assertReset` and nothing else. -/
theorem step_of_reset {s : State} {later : List HostAct} (hhost : s.host = .reset :: later) :
    step s = .next ({ s with host := later } : State).assertReset := by
  rw [step_eq, State.fetch, hhost]
  rfl

/-- The block that reset leaves is idle, so it accepts an operation at once: CRC8_READ delivers the accumulator's reset
value. -/
theorem exec_crc8Read_assertReset (s : State) :
    exec .crc8Read s.assertReset =
      .next { s.assertReset with outputs := s.assertReset.outputs ++ [Output.value (.byte 0x00#8)] } := by
  have hidle : s.assertReset.activity = .idle := s.assertReset_activity
  rw [exec_crc8Read_of_idle hidle, State.finish_of_idle hidle]
  rfl

/-- Settles O2: the step is `State.assertReset` on the state that has consumed the act, with R20's values and the outputs as
they stood. -/
theorem resetInputAbandonsTheOperation : Obligations.ResetInputAbandonsTheOperation := by
  intro s later hhost
  exact ⟨_, step_of_reset hhost, State.assertReset_acc8 _, State.assertReset_acc16 _, State.assertReset_idsWritten _,
    State.assertReset_activity _, State.assertReset_outputs _, exec_crc8Read_assertReset _⟩

end Sys2Proof.Proofs
end

section
/-! The frame instruction and the bytes it stands for (30_encoding R66, R75): decoding keeps every byte of the frame at the
cursor and none behind it, R67's rows look at no other byte, and so the instruction's turn is that of its bytes. -/

namespace Sys2Proof.Proofs

open Sys2Proof Sys2Proof.Machine

/-! ## Encode after decode -/

/-- The bytes behind offset 14 that belong to the frame, written back as they were read. -/
theorem encodeTail_readTail (len : Nat) (t : List Byte) : encodeTail (readTail len t) = t.take (len - 7) := by
  unfold readTail
  split
  case isFalse => rfl
  case isTrue h =>
    obtain ⟨hmin, hfits⟩ := h
    unfold softMin at hmin
    match t, (show 3 ≤ t.length by omega) with
    | b0 :: b1 :: b2 :: u, _ =>
      have hlen : len - 7 ≤ u.length + 3 := hfits
      have hcrc : u.drop (len - 12) = byteAt u (len - 12) :: byteAt u (len - 11) :: u.drop (len - 10) := by
        rw [List.drop_eq_getElem_cons (by omega), List.drop_eq_getElem_cons (by omega), byteAt_eq_getElem (by omega),
          byteAt_eq_getElem (by omega)]
        simp only [show len - 12 + 1 = len - 11 by omega, show len - 11 + 1 = len - 10 by omega]
      have hu : u.take (len - 10) = u.take (len - 12) ++ [byteAt u (len - 12), byteAt u (len - 11)] := by
        rw [show len - 10 = len - 12 + 2 by omega, List.take_add, hcrc]
        rfl
      rw [show len - 7 = len - 10 + 3 by omega, show len - 9 = len - 12 + 3 by omega, show len - 8 = len - 11 + 3 by omega]
      simp only [encodeTail, slice, List.take_succ_cons, List.drop_succ_cons, List.drop_zero, byteAt_cons_succ,
        byteAt_cons_zero, lo8_le16, hi8_le16, lo8_be16, hi8_be16, hu]

/-- How many bytes a frame instruction holds at most: what its row looks at, and the length it declares (R75, R54). -/
def frameExtent (F : List Byte) : Nat := max 15 (8 + (byteAt F 6).toNat)

theorem take_fifteen {F : List Byte} (h : 15 ≤ F.length) : F.take 15 =
    [byteAt F 0, byteAt F 1, byteAt F 2, byteAt F 3, byteAt F 4, byteAt F 5, byteAt F 6, byteAt F 7, byteAt F 8, byteAt F 9,
      byteAt F 10, byteAt F 11, byteAt F 12, byteAt F 13, byteAt F 14] := by
  match F, h with
  | _ :: _ :: _ :: _ :: _ :: _ :: _ :: _ :: _ :: _ :: _ :: _ :: _ :: _ :: _ :: _, _ => rfl

theorem encodeFrame_readFrame {F : List Byte} (h : Spelled F) :
    encodeFrame (byteAt F 12) (readFrame F) = F.take (frameExtent F) := by
  obtain ⟨h15, h0, h3, h4, h5, h13, h14⟩ := h
  rw [frameExtent, show max 15 (8 + (byteAt F 6).toNat) = 15 + ((byteAt F 6).toNat - 7) by omega, List.take_add,
    take_fifteen h15, ← encodeTail_readTail, h0, h3, h4, h5, h13, h14]
  simp only [encodeFrame, readFrame, lo8_le16, hi8_le16]

theorem encode_of_decode_buffer {F : List Byte} {i : Instr} (h : decode .buffer F = .ok i) :
    i.space = .buffer ∧ encode i = F.take (frameExtent F) := by
  obtain ⟨hspelled, rfl⟩ := spelled_of_decodeFrame h
  obtain ⟨hencode, hspace, -⟩ := encode_kind (byteAt F 12) (readFrame F)
  exact ⟨hspace, hencode.trans (encodeFrame_readFrame hspelled)⟩

/-! ## R67's rows look at the frame alone -/

theorem illegalRow_take {ids : Ids} {F : List Byte} {m : Nat} (hm : frameExtent F ≤ m) (row : Nat) :
    IllegalRow ids (F.take m) row ↔ IllegalRow ids F row := by
  have hrow : 15 ≤ m := le_trans (le_max_left ..) hm
  have hdeclared : 8 + (byteAt F 6).toNat ≤ m := le_trans (le_max_right ..) hm
  have hbyte : ∀ j < m, byteAt (F.take m) j = byteAt F j := byteAt_take F m
  by_cases hr : 1 ≤ row ∧ row ≤ 11
  case neg => exact iff_of_false (fun h => hr (illegalRow_range h)) (fun h => hr (illegalRow_range h))
  case pos =>
    obtain ⟨hlo, hhi⟩ := hr
    have h6 := hbyte 6 (by omega)
    have hbody : ((F.take m).drop 8).take ((byteAt F 6).toNat - 2) = (F.drop 8).take ((byteAt F 6).toNat - 2) := by
      rw [List.drop_take, List.take_take, show min ((byteAt F 6).toNat - 2) (m - 8) = (byteAt F 6).toNat - 2 by omega]
    interval_cases row <;>
      simp only [IllegalRow, h6, hbyte 0 (by omega), hbyte 1 (by omega), hbyte 2 (by omega), hbyte 3 (by omega),
        hbyte 4 (by omega), hbyte 5 (by omega), hbyte 7 (by omega), hbyte 8 (by omega), hbyte 9 (by omega),
        hbyte 10 (by omega), hbyte 11 (by omega), hbyte 13 (by omega), hbyte 14 (by omega),
        hbyte (6 + (byteAt F 6).toNat) (by omega), hbyte (7 + (byteAt F 6).toNat) (by omega), hbody, List.take_take,
        show min 7 m = 7 by omega, List.length_take]
    -- Rows 1 and 7 look at the length, which the cut leaves above what they compare it with.
    all_goals omega

theorem legal_take {ids : Ids} {F : List Byte} {m : Nat} (hm : frameExtent F ≤ m) : Legal ids (F.take m) ↔ Legal ids F :=
  forall_congr' fun row => not_congr (illegalRow_take hm row)

theorem firstIllegal_take {ids : Ids} {F : List Byte} {m : Nat} (hm : frameExtent F ≤ m) (row : Nat) :
    FirstIllegal ids (F.take m) row ↔ FirstIllegal ids F row := by
  simp only [FirstIllegal, illegalRow_take hm]

theorem headerAt_take {F : List Byte} {m : Nat} (h : 8 ≤ m) : headerAt (F.take m) = headerAt F := by
  have hbyte : ∀ j < 8, byteAt (F.take m) j = byteAt F j := fun j hj => byteAt_take F m j (by omega)
  simp only [headerAt, hbyte _ (by decide : 0 < 8), hbyte 1, hbyte 2, hbyte 3, hbyte 4, hbyte 5, hbyte 6, hbyte 7,
    Nat.reduceLT, List.take_take, show min 7 m = 7 by omega]

/-- A message that is there whole is read from the frame's own bytes. -/
theorem messageAt_take {F : List Byte} {m : Nat} (hmin : 12 ≤ (byteAt F 6).toNat) (hm : 8 + (byteAt F 6).toNat ≤ m) :
    messageAt (F.take m) = messageAt F := by
  have hbyte : ∀ j < m, byteAt (F.take m) j = byteAt F j := byteAt_take F m
  have h6 := hbyte 6 (by omega)
  have hrest : ((F.take m).drop 18).take ((byteAt F 6).toNat - 12) = (F.drop 18).take ((byteAt F 6).toNat - 12) := by
    rw [List.drop_take, List.take_take, show min ((byteAt F 6).toNat - 12) (m - 18) = (byteAt F 6).toNat - 12 by omega]
  have hbody : ((F.take m).drop 8).take ((byteAt F 6).toNat - 2) = (F.drop 8).take ((byteAt F 6).toNat - 2) := by
    rw [List.drop_take, List.take_take, show min ((byteAt F 6).toNat - 2) (m - 8) = (byteAt F 6).toNat - 2 by omega]
  simp only [messageAt, h6, hrest, hbody, hbyte 8 (by omega), hbyte 9 (by omega), hbyte 10 (by omega), hbyte 11 (by omega),
    hbyte 12 (by omega), hbyte 13 (by omega), hbyte 14 (by omega), hbyte 15 (by omega), hbyte 16 (by omega),
    hbyte 17 (by omega), hbyte (6 + (byteAt F 6).toNat) (by omega), hbyte (7 + (byteAt F 6).toNat) (by omega)]

theorem frameExtent_of_legal {ids : Ids} {F : List Byte} (h : Legal ids F) : frameExtent F = 8 + (byteAt F 6).toNat := by
  obtain ⟨hmin, -⟩ := h.length
  unfold frameExtent
  omega

/-! ## A frame's turn at the cursor -/

/-- A turn of the loop on a legal frame (R110). -/
theorem turn_of_legal {s : State} {F : List Byte} (hw : s.idsWritten = true) (h : Legal s.ids F) (sc : Scan) :
    s.turn sc F =
      s.emit (headerAt F) (messageAt F) (F.take (8 + (byteAt F 6).toNat)) (.advance sc (8 + (byteAt F 6).toNat)) := by
  rw [State.turn, if_neg (by rw [hw]; decide), processFrame_of_legal h]

theorem turn_of_idsUnset {s : State} (hw : s.idsWritten = false) (sc : Scan) (F : List Byte) :
    s.turn sc F = { s with activity := .idle }.refuse .idsUnset := if_pos hw

/-- The turn does not depend on what stands behind the frame. -/
theorem turn_take {F : List Byte} {m : Nat} (hm : frameExtent F ≤ m) (s : State) (sc : Scan) :
    s.turn sc (F.take m) = s.turn sc F := by
  cases hw : s.idsWritten with
  | false => rw [turn_of_idsUnset hw, turn_of_idsUnset hw]
  | true =>
    rcases legal_or_firstIllegal s.ids F with hlegal | ⟨row, -, hfirst⟩
    · obtain ⟨hmin, -⟩ := hlegal.length
      rw [frameExtent_of_legal hlegal] at hm
      rw [turn_of_legal hw hlegal, turn_of_legal hw ((legal_take ((frameExtent_of_legal hlegal).trans_le hm)).2 hlegal),
        headerAt_take (by omega), messageAt_take hmin hm, byteAt_take F m 6 (by omega), List.take_take,
        Nat.min_eq_left hm]
    · rw [turn_of_firstIllegal hw hfirst, turn_of_firstIllegal hw ((firstIllegal_take hm row).2 hfirst)]

/-- Settles O49: the instruction holds the frame's bytes, and the turn depends on no other. -/
theorem frameInstructionAgreesWithItsBytes : Obligations.FrameInstructionAgreesWithItsBytes := by
  intro s sc bytes i hscan hdecode
  obtain ⟨hspace, hencode⟩ := encode_of_decode_buffer hdecode
  rw [exec_frame hspace hscan, hencode, turn_take le_rfl]

/-- Settles O28: a frame row at the cursor takes the turn of its bytes, which ends the loop as the first row says. -/
theorem illegalFramesAtTheCursorEndProcessAll : Obligations.IllegalFramesAtTheCursorEndProcessAll := by
  intro s sc i row hscan hwritten hspace hfirst
  rw [exec_frame hspace hscan, turn_of_firstIllegal hwritten hfirst]

/-- Settles O29: a row matches when the bytes R75 asks for stand at their places, the function code chooses among the five; a
legal frame has those bytes, declares a whole soft message, and is written back as the bytes it was read from. -/
theorem everyDeliveredFrameMatchesATableRow : Obligations.EveryDeliveredFrameMatchesATableRow := by
  refine ⟨fun bytes => ?rows, fun ids buffer allowPartial h sh raw n rest hd => ?delivered⟩
  case rows =>
    have hspelled : (15 ≤ bytes.length ∧ byteAt bytes 0 = 0x69#8 ∧
        [byteAt bytes 3, byteAt bytes 4, byteAt bytes 5] = [0x84#8, 0x00#8, 0x00#8] ∧
        [byteAt bytes 13, byteAt bytes 14] = [0x80#8, 0x00#8]) ↔ Spelled bytes := by
      simp only [List.cons.injEq, and_true, Spelled, and_assoc]
    split
    case isTrue h => exact classify_spelled (hspelled.1 h)
    case isFalse h => exact classify_not_spelled (mt hspelled.2 h)
  case delivered =>
    obtain ⟨hlegal, -, -, rfl, rfl, -⟩ := legal_of_delivered hd
    obtain ⟨hmin, hfits⟩ := hlegal.length
    have hdecode : decode .buffer buffer = .ok _ := decodeFrame_spelled (spelled_of_legal hlegal)
    obtain ⟨-, -, hwellFormed⟩ := encode_kind (byteAt buffer 12) (readFrame buffer)
    obtain ⟨-, hencode⟩ := encode_of_decode_buffer hdecode
    rw [frameExtent_of_legal hlegal] at hencode
    exact ⟨_, hdecode, hwellFormed.trans (readFrame_wellFormed hmin hfits), hencode⟩

/-! ## A whole frame whose checksums are right -/

section Fields

variable {toHard fromHard : Byte} {toLogical fromLogical : Half} {fn : Byte} {start : Half} {count : Byte} {data : List Byte}

/-- What is read from a built frame's soft message: the operands, and the CRC-16 twice. -/
theorem messageAt_builtFrame (hlen : data.length ≤ 243) :
    messageAt (builtFrame toHard fromHard toLogical fromLogical fn start count data) =
      { toLogical := toLogical, fromLogical := fromLogical, functionCode := fn, constByte := 0x0080#16
        registerCount := count, registerStart := start, restMessage := data
        crc16 := crc16 (softBody toLogical fromLogical fn start count data)
        calcCrc16 := crc16 (softBody toLogical fromLogical fn start count data) } := by
  have hrest : (messageAt (builtFrame toHard fromHard toLogical fromLogical fn start count data)).restMessage = data :=
    restMessage_messageAt_builtFrame hlen
  have hcrc : (messageAt (builtFrame toHard fromHard toLogical fromLogical fn start count data)).crc16 =
      (messageAt (builtFrame toHard fromHard toLogical fromLogical fn start count data)).calcCrc16 :=
    (checksums_of_buildFrame (buildFrame_of_le hlen)).2
  have hcalc : (messageAt (builtFrame toHard fromHard toLogical fromLogical fn start count data)).calcCrc16 =
      crc16 (softBody toLogical fromLogical fn start count data) := by
    show crc16 ((softWithCrc (softBody toLogical fromLogical fn start count data)).take _) = _
    rw [toNat_declared_builtFrame hlen, softWithCrc, List.take_left' (by rw [length_softBody]; omega)]
  rw [SoftMessage.mk.injEq]
  exact ⟨le16_lo8_hi8 toLogical, le16_lo8_hi8 fromLogical, rfl, (le16_eq_softConst ..).2 ⟨rfl, rfl⟩, rfl, le16_lo8_hi8 start,
    hrest, hcrc.trans hcalc, hcalc⟩

end Fields

/-- A whole frame instruction with its two checksums is the frame the encoder builds of its fields. -/
theorem encodeFrame_eq_builtFrame {f : Frame} {fn count : Byte} {start crc : Half} {rest : List Byte}
    (htail : f.tail = .whole count start rest crc) (hlength : f.payloadLength.toNat = 12 + rest.length)
    (hcrc8 : f.crc8 = crc8 [0x69#8, f.toHard, f.fromHard, 0x84#8, 0x00#8, 0x00#8, f.payloadLength])
    (hcrc16 : crc = crc16 (softBody f.toLogical f.fromLogical fn start count rest)) :
    encodeFrame fn f = builtFrame f.toHard f.fromHard f.toLogical f.fromLogical fn start count rest := by
  have hdeclared : f.payloadLength =
      BitVec.ofNat 8 (softWithCrc (softBody f.toLogical f.fromLogical fn start count rest)).length := by
    apply BitVec.eq_of_toNat_eq
    rw [length_softWithCrc, length_softBody, BitVec.toNat_ofNat, hlength]
    have := f.payloadLength.isLt
    omega
  rw [encodeFrame, htail, hcrc8, hcrc16, hdeclared]
  rfl

/-- Settles O27: the instruction's bytes are a built frame's, so they break no row of R67, the records read from them hold the
frame's fields, and the turn at the cursor emits them. -/
theorem framesAtTheCursorAreDelivered : Obligations.FramesAtTheCursorAreDelivered := by
  intro s sc i fn f count start rest crc hscan hwritten hi htail hlength hcrc8 hto hfrom hne hcrc16
  have hlen : rest.length ≤ 243 := by have := f.payloadLength.isLt; omega
  have hframe : i.space = .buffer ∧ encode i = encodeFrame fn f := by
    rcases hi with ⟨rfl, rfl⟩ | ⟨rfl, rfl⟩ | ⟨rfl, rfl⟩ | ⟨rfl, rfl⟩ | rfl <;> exact ⟨rfl, rfl⟩
  obtain ⟨hspace, hencode⟩ := hframe
  have hbuilt := encodeFrame_eq_builtFrame htail hlength hcrc8 hcrc16
  have hlegal : Legal s.ids (encodeFrame fn f) := hbuilt ▸ legal_builtFrame hlen hne hto hfrom
  have hwhole : (encodeFrame fn f).length = 8 + f.payloadLength.toNat := by
    rw [hbuilt, length_builtFrame, hlength]
    omega
  have hheader : headerAt (encodeFrame fn f) =
      ⟨0x69#8, f.toHard, f.fromHard, 0x000084#24, f.payloadLength, f.crc8, f.crc8⟩ := by
    rw [HardHeader.mk.injEq]
    exact ⟨rfl, rfl, rfl, (le24_eq_hardConst ..).2 ⟨rfl, rfl, rfl⟩, rfl, rfl, hcrc8.symm⟩
  have hmessage : messageAt (encodeFrame fn f) =
      ⟨f.toLogical, f.fromLogical, fn, 0x0080#16, count, start, rest, crc, crc⟩ := by
    rw [hbuilt, messageAt_builtFrame hlen, hcrc16]
    rfl
  rw [exec_frame hspace hscan, hencode, turn_of_legal hwritten hlegal, hheader, hmessage,
    show byteAt (encodeFrame fn f) 6 = f.payloadLength from rfl, ← hwhole, List.take_length, hwhole, hlength,
    show 8 + (12 + rest.length) = 20 + rest.length by omega]
  rfl

end Sys2Proof.Proofs
end

section
/-! Encoding, decoding and the fetch (30_encoding R74, R75): decoding undoes the encoding of every well-formed instruction,
and a step runs what the bytes it fetches decode to. -/

namespace Sys2Proof.Proofs

open Sys2Proof Sys2Proof.Machine

/-! ## Requests -/

theorem headerOperand_headerBytes (h : HardHeader) :
    headerOperand h.startByte h.toHard h.fromHard (h.constBytes.extractLsb' 0 8) (h.constBytes.extractLsb' 8 8)
      (h.constBytes.extractLsb' 16 8) h.payloadLength h.crc8 h.calcCrc8 = h := by
  rw [headerOperand, le24_bytes24]

theorem flagOf_flagByte (b : Bool) : flagOf (flagByte b) = b := by
  cases b <;> rfl

theorem decode_encodeFrame (fn : Byte) {f : Frame} (h : f.wellFormed = true) :
    decode .buffer (encodeFrame fn f) = .ok ((kindOf fn).instr fn f) := by
  obtain ⟨hspelled, hcode⟩ := spelled_encodeFrame fn f
  have hdecode : decodeFrame (encodeFrame fn f) = _ := decodeFrame_spelled hspelled
  rwa [hcode, readFrame_encodeFrame fn f h] at hdecode

theorem kindOf_of_unknown {fn : Byte} (h : knownFunctionCodes.contains fn = false) : kindOf fn = .other := by
  simp only [knownFunctionCodes, List.contains_eq_mem, List.mem_cons, List.not_mem_nil, or_false, decide_eq_false_iff_not,
    not_or] at h
  obtain ⟨h40, h50, h60, h70⟩ := h
  rw [kindOf, if_neg h40, if_neg h50, if_neg h60, if_neg h70]

/-- Settles O51: -/
theorem decodeOfEncodeIsTheInstruction : Obligations.DecodeOfEncodeIsTheInstruction := by
  intro i hwf
  cases i with
  | readReq f => exact decode_encodeFrame 0x40#8 hwf
  | readResp f => exact decode_encodeFrame 0x50#8 hwf
  | writePush f => exact decode_encodeFrame 0x60#8 hwf
  | writeAck f => exact decode_encodeFrame 0x70#8 hwf
  | frameOther fn f =>
    simp only [Instr.wellFormed, Bool.and_eq_true, Bool.not_eq_true'] at hwf
    obtain ⟨hframe, hunknown⟩ := hwf
    exact (decode_encodeFrame fn hframe).trans (by rw [kindOf_of_unknown hunknown]; rfl)
  | crc8Clr | crc8Byte | crc8Read | crc8Msg | crc16Clr | crc16Byte | crc16Read | crc16Msg | parseHard | parseSoft => rfl
  | validateHard h =>
    show Except.ok (Instr.validateHard (headerOperand ..)) = _
    rw [headerOperand_headerBytes]
  | validateSoft h m =>
    show Except.ok (Instr.validateSoft (headerOperand ..)
      ⟨le16 _ _, le16 _ _, m.functionCode, le16 _ _, m.registerCount, le16 _ _, m.restMessage, le16 _ _, le16 _ _⟩) = _
    simp only [headerOperand_headerBytes, le16_lo8_hi8]
  | processOne buffer p =>
    show Except.ok (Instr.processOne buffer (flagOf (flagByte p))) = _
    rw [flagOf_flagByte]
  | processAll buffer p =>
    show Except.ok (Instr.processAll buffer (flagOf (flagByte p))) = _
    rw [flagOf_flagByte]
  | buildRead d c dl cl s n =>
    show Except.ok (Instr.buildRead d c (le16 _ _) (le16 _ _) (le16 _ _) n) = _
    simp only [le16_lo8_hi8]
  | buildWrite d c dl cl s n values =>
    show Except.ok (Instr.buildWrite d c (le16 _ _) (le16 _ _) (le16 _ _) n (halvesOf (bytesOfHalves values))) = _
    simp only [le16_lo8_hi8, halvesOf_bytesOfHalves]
  | setIds c d cl dl =>
    show Except.ok (Instr.setIds c d (le16 _ _) (le16 _ _)) = _
    simp only [le16_lo8_hi8]

/-! ## The `op` of a request -/

theorem toNat_and_mask (b : Byte) : (b &&& 0x1F#8).toNat = b.toNat % 32 := by
  rw [BitVec.toNat_and]
  exact Nat.and_two_pow_sub_one_eq_mod b.toNat 5

/-- R74: the operands of operation `op` make an instruction of that number. -/
theorem toNat_opNumber_of_decodeOperands {op : Nat} {args : List Byte} {i : Instr} (h : decodeOperands op args = .ok i) :
    (opNumber i).toNat = op := by
  unfold decodeOperands at h
  repeat' split at h
  all_goals cases h
  all_goals rfl

/-- R74: the numbers from 0x11 on are no operation's, whatever bytes follow. -/
theorem decodeOperands_of_unassigned {op : Nat} (h : 0x11 ≤ op) (args : List Byte) :
    decodeOperands op args = .error (.unknownOperation op) := by
  unfold decodeOperands
  split
  case h_18 => rfl
  all_goals omega

theorem decode_of_unassigned {b : Byte} (h : 0x11 ≤ b.toNat % 32) (args : List Byte) :
    decode .command (b :: args) = .error (.unknownOperation (b.toNat % 32)) := by
  rw [← toNat_and_mask] at h ⊢
  exact decodeOperands_of_unassigned h args

/-- A request whose bytes are an instruction is run on the state that has consumed the host's act. -/
theorem step_of_request {s : State} {bytes : List Byte} {later : List HostAct} {i : Instr}
    (hhost : s.host = .request bytes :: later) (hdecode : decode .command bytes = .ok i) :
    step s = exec i { s with host := later } := by
  rw [step_eq, State.fetch, hhost]
  simp only [State.respond, hdecode]
  rfl

/-- A request whose bytes are none is rejected on that state. -/
theorem step_of_rejected {s : State} {bytes : List Byte} {later : List HostAct} {e : DecodeError}
    (hhost : s.host = .request bytes :: later) (hdecode : decode .command bytes = .error e) :
    step s = ({ s with host := later } : State).rejectRequest e := by
  rw [step_eq, State.fetch, hhost]
  simp only [State.respond, hdecode]
  rfl

theorem rejectRequest_of_idle {s : State} (hidle : s.activity = .idle) (op : Nat) :
    s.rejectRequest (.unknownOperation op) = .next (s.refuse .unknownOperation) := by
  rw [State.rejectRequest, (State.busy_eq_false_iff s).2 hidle]
  rfl

/-- 60 R184: an unassigned `op` is refused on an idle block. -/
theorem step_of_unassigned {s : State} {b : Byte} {args : List Byte} {later : List HostAct}
    (hhost : s.host = .request (b :: args) :: later) (hidle : s.activity = .idle) (h : 0x11 ≤ b.toNat % 32) :
    step s = .next (({ s with host := later } : State).refuse .unknownOperation) := by
  rw [step_of_rejected hhost (decode_of_unassigned h args)]
  exact rejectRequest_of_idle (s := { s with host := later }) hidle _

/-- Settles O52: an encoding begins with the `op` of its operation, decoding keeps the number of the five bits, and a number
from 0x11 on decodes to nothing, which an idle block refuses. -/
theorem operationNumbersSelectTheOperation : Obligations.OperationNumbersSelectTheOperation := by
  refine ⟨fun i hspace => ?encoded, fun b args i hdecode => ?decoded, fun b args hb => ?unassigned⟩
  case encoded =>
    cases i with
    | readReq | readResp | writePush | writeAck | frameOther => cases hspace
    | _ => exact ⟨_, rfl, Nat.le_of_ble_eq_true rfl⟩
  case decoded => exact BitVec.eq_of_toNat_eq (toNat_opNumber_of_decodeOperands hdecode)
  case unassigned => exact ⟨decode_of_unassigned hb args, fun s later hhost hidle => step_of_unassigned hhost hidle hb⟩

/-- Settles O53: each word is decoded by evaluation. -/
theorem writtenOutWordsDecode : Obligations.WrittenOutWordsDecode := by
  unfold Obligations.WrittenOutWordsDecode
  decide +kernel

/-! ## What a step fetches -/

/-- Unless the host is asked to take an MSG, its idle act and its ack ask nothing of the block. -/
theorem unasked_of_act {s : State} {a : HostAct} {later : List HostAct} (hhost : s.host = a :: later)
    (ha : a = .idle ∨ a = .ack) (hact : ∀ r, s.activity ≠ .handling r) : s.Unasked := by
  rcases ha with rfl | rfl
  · exact .inr ⟨later, .inl hhost⟩
  · exact .inr ⟨later, .inr ⟨hhost, hact⟩⟩

theorem ownMove_of_frame {s : State} {sc : Scan} {i : Instr} (hscan : s.activity = .scanning sc)
    (hdecode : decode .buffer sc.rest = .ok i) : s.ownMove.outcome = exec i s := by
  rw [State.ownMove, hscan]
  simp only [hdecode]
  rfl

theorem ownMove_of_not_scanning {s : State} (h : ∀ sc, s.activity ≠ .scanning sc) : s.ownMove.outcome = .next s := by
  rw [State.ownMove]
  cases hact : s.activity with
  | scanning sc => exact absurd hact (h sc)
  | idle | handling => rfl

/-- A frame row at the cursor of a running PROCESS_ALL is run when the host asks nothing. -/
theorem step_of_frame {s : State} {sc : Scan} {i : Instr} (hscan : s.activity = .scanning sc) (hunasked : s.Unasked)
    (hdecode : decode .buffer sc.rest = .ok i) : step s = exec i { s with host := s.host.tail } := by
  rw [step_of_unasked hunasked, ownMove_of_frame (s := { s with host := s.host.tail }) hscan hdecode]

theorem consume_of_no_act {s : State} (hhost : s.host = []) : ({ s with host := s.host.tail } : State) = s := by
  cases s
  cases hhost
  rfl

theorem firstIllegal_of_decode_error {F : List Byte} {e : DecodeError} (h : decode .buffer F = .error e) (ids : Ids) :
    ∃ row, row ≤ 11 ∧ FirstIllegal ids F row := by
  refine (legal_or_firstIllegal ids F).resolve_left fun hlegal => ?_
  have hok : decode .buffer F = .ok _ := decodeFrame_spelled (spelled_of_legal hlegal)
  rw [h] at hok
  cases hok

/-- Settles O48: the fetch by the host's act; bytes that match no frame row are no legal frame, so some row of R67 is the first
that holds of them and their turn ends the loop. -/
theorem stepRunsTheFetchedInstruction : Obligations.StepRunsTheFetchedInstruction := by
  refine ⟨fun s bytes later i => step_of_request, fun s sc i hscan hdecode => ?frame,
    fun s sc e hscan hunasked hdecode => ?noRow⟩
  case frame =>
    have hact : ∀ r, s.activity ≠ .handling r := by simp [hscan]
    refine ⟨fun hhost => ?script, fun a later hhost ha => ?act⟩
    case script =>
      rw [step_of_frame hscan (.inl hhost) hdecode, consume_of_no_act hhost]
    case act => rw [step_of_frame hscan (unasked_of_act hhost ha hact) hdecode, hhost, List.tail_cons]
  case noRow =>
    rw [step_of_noRow hscan hunasked hdecode]
    refine ⟨fun hunset => ?unset, fun hwritten => ⟨firstIllegal_of_decode_error hdecode s.ids, fun row hfirst => ?first⟩⟩
    case unset => exact congrArg _ (turn_of_idsUnset (s := { s with host := s.host.tail }) hunset sc _)
    case first => exact congrArg _ (turn_of_firstIllegal (s := { s with host := s.host.tail }) hwritten hfirst sc)

/-- Settles O50: in either place the word is what the step fetches, on a state that differs from the given one in what is in
progress at most. -/
theorem placedTableWordRunsNext : Obligations.PlacedTableWordRunsNext := by
  intro s nbits w i hword
  have hdecode : decode (tableSpace nbits) (tableBytes nbits w) = .ok i := by
    unfold decodeTableWord at hword
    cases hd : decode (tableSpace nbits) (tableBytes nbits w) with
    | ok j => rw [hd] at hword; cases hword; rfl
    | error e => rw [hd] at hword; cases hword
  unfold State.withFetchWord State.placeWord
  cases hspace : tableSpace nbits with
  | command =>
    rw [hspace] at hdecode
    exact ⟨_, step_of_request rfl hdecode, rfl, rfl, rfl, rfl, rfl, rfl, rfl, rfl⟩
  | buffer =>
    rw [hspace] at hdecode
    exact ⟨_, step_of_frame rfl (.inr ⟨_, .inl rfl⟩) hdecode, rfl, rfl, rfl, rfl, rfl, rfl, rfl, rfl⟩

end Sys2Proof.Proofs
end

section
/-! What an instruction and a turn of PROCESS_ALL's loop can do, said once (40_crc to 43_config_and_host, 60 R184): an
operation is admitted and completed or refused, a frame at the cursor is delivered or ends the loop; and an MSG keeps its promise. -/

namespace Sys2Proof.Proofs

open Sys2Proof Sys2Proof.Machine

/-! ## What an MSG carries -/

theorem drop_eq_byteAt_cons {F : List Byte} {k : Nat} (h : k < F.length) : F.drop k = byteAt F k :: F.drop (k + 1) := by
  rw [List.drop_eq_getElem_cons h, byteAt_eq_getElem h]

/-- The last two bytes of a frame are the bytes of its CRC-16, high byte first (R56). -/
theorem drop_eq_crcBytes {F : List Byte} (hwhole : F.length = 8 + (byteAt F 6).toNat) :
    F.drop (6 + (byteAt F 6).toNat) = [hi8 (messageAt F).crc16, lo8 (messageAt F).crc16] := by
  generalize hlen : (byteAt F 6).toNat = len at *
  rw [drop_eq_byteAt_cons (by omega), drop_eq_byteAt_cons (by omega), List.drop_eq_nil_of_le (by omega)]
  simp only [messageAt, hlen, hi8_be16, lo8_be16, show 6 + len + 1 = 7 + len by omega]

/-- A legal frame that fills its bytes meets every promise of an MSG. -/
theorem validDelivery_of_whole {ids : Ids} {F : List Byte} (h : Legal ids F) (hwhole : F.length = 8 + (byteAt F 6).toNat) :
    ValidDelivery (headerAt F) (messageAt F) F := by
  obtain ⟨hmin, -⟩ := h.length
  have hstart : byteAt F 0 = 0x69#8 := not_not.1 (h 2)
  have hcheck : byteAt F 7 = crc8 (F.take 7) := not_not.1 (h 3)
  have hconst : byteAt F 3 = 0x84#8 ∧ byteAt F 4 = 0x00#8 ∧ byteAt F 5 = 0x00#8 := not_not.1 (h 4)
  have hsoft : byteAt F 13 = 0x80#8 ∧ byteAt F 14 = 0x00#8 := not_not.1 (h 10)
  have hcrc : (messageAt F).crc16 = (messageAt F).calcCrc16 := not_not.1 (mt (illegalRow_nine_iff ids F).2 (h 9))
  have hextract : F.extract 3 6 = [byteAt F 3, byteAt F 4, byteAt F 5] := by
    rw [List.extract_eq_take_drop, drop_eq_byteAt_cons (by omega), drop_eq_byteAt_cons (by omega),
      drop_eq_byteAt_cons (by omega)]
    rfl
  have hbody : ((F.drop 8).dropLast.dropLast) = (F.drop 8).take ((byteAt F 6).toNat - 2) := by
    rw [List.dropLast_eq_take, List.dropLast_eq_take, List.take_take, List.length_take, List.length_drop, hwhole]
    congr 1
    omega
  refine
    { length := hwhole, minimum := hmin, start := ⟨hstart, hstart⟩, addresses := ⟨rfl, rfl, h 6⟩
      hardConstant := ⟨(le24_eq_hardConst ..).2 hconst, ?hardConstant⟩, declared := rfl
      hardChecksum := ⟨rfl, hcheck.symm, hcheck⟩, logical := ⟨rfl, rfl⟩, code := rfl
      softConstant := ⟨(le16_eq_softConst ..).2 hsoft, hsoft⟩, registers := ⟨rfl, rfl⟩, payload := ?payload
      softChecksum := ⟨hcrc.symm, ?softChecksum⟩ }
  case hardConstant => rw [hextract, hconst.1, hconst.2.1, hconst.2.2]
  case payload =>
    have hrest : F.take 18 ++ (messageAt F).restMessage = F.take (6 + (byteAt F 6).toNat) := by
      rw [show 6 + (byteAt F 6).toNat = 18 + ((byteAt F 6).toNat - 12) by omega, List.take_add]
      rfl
    rw [hrest, ← drop_eq_crcBytes hwhole, List.take_append_drop]
  case softChecksum => rw [hbody, hcrc]; rfl

theorem validDelivery_of_legal {ids : Ids} {F : List Byte} (h : Legal ids F) :
    ValidDelivery (headerAt F) (messageAt F) (F.take (8 + (byteAt F 6).toNat)) := by
  obtain ⟨hmin, hfits⟩ := h.length
  have hlegal := (legal_take (frameExtent_of_legal h).le).2 h
  have hvalid := validDelivery_of_whole hlegal
    (by rw [List.length_take_of_le hfits, byteAt_take _ _ _ (by omega)])
  rwa [headerAt_take (by omega), messageAt_take hmin le_rfl] at hvalid

/-! ## An instruction's outcome, said once -/

/-- Whether an operation is refused while the ids are not written (60 R184). -/
def readsIds : Instr → Bool
  | .validateHard _ | .validateSoft _ _ | .processOne _ _ | .processAll _ _ => true
  | _ => false

/-- How many bytes of an operation's operands `BUF_MAX` bounds (60 R184). -/
def boundedLength : Instr → Nat
  | .crc8Msg bytes | .crc16Msg bytes | .parseHard bytes | .parseSoft bytes _ | .processOne bytes _ | .processAll bytes _ =>
    bytes.length
  | _ => 0

/-- The state an admitted operation leaves. A frame is no operation and leaves none. -/
def completed (s : State) : Instr → State
  | .readReq _ | .readResp _ | .writePush _ | .writeAck _ | .frameOther _ _ => s
  | .crc8Clr => (s.setAcc8 init8).finish .none
  | .crc8Byte b => (s.setAcc8 (crc8Step s.acc8 b)).finish .none
  | .crc8Read => s.finish (.byte s.acc8)
  | .crc8Msg bytes => s.spoilAcc8.finish (.byte (crc8 bytes))
  | .crc16Clr => (s.setAcc16 init16).finish .none
  | .crc16Byte b => (s.setAcc16 (crc16Step s.acc16 b)).finish .none
  | .crc16Read => s.finish (.half s.acc16)
  | .crc16Msg bytes => s.spoilAcc16.finish (.half (crc16 bytes))
  | .parseHard buf => s.spoilAcc8.deliver ((parseHard buf).map .header)
  | .validateHard h => s.verdict (hardError s.ids h)
  | .parseSoft p n => s.spoilAcc16.deliver ((parseSoft p n).map .message)
  | .validateSoft h sh => s.verdict (softError s.ids h sh)
  | .processOne buffer p => s.spoilAcc8.spoilAcc16.one buffer p
  | .processAll buffer p => s.spoilAcc8.spoilAcc16.loop ⟨buffer, 0, p⟩
  | .buildRead d c dl cl start count => s.built (buildFrame d c dl cl 0x40#8 start count [])
  | .buildWrite d c dl cl start count values => s.built (buildFrame d c dl cl 0x60#8 start count (bytesOfHalves values))
  | .setIds c d cl dl => (s.writeIds ⟨c, d, cl, dl⟩).finish .none

/-- Every operation is admitted and completed, or refused. -/
theorem exec_eq_perform {i : Instr} (h : i.space = .command) (s : State) :
    exec i s = s.perform (readsIds i) (boundedLength i) (completed s i) := by
  cases i with
  | readReq | readResp | writePush | writeAck | frameOther => cases h
  | _ => rfl

/-- Everything an instruction that goes on can have done. -/
inductive ExecCase (i : Instr) (s t : State) : Prop
  /-- The turn of a frame at the cursor of a running PROCESS_ALL. -/
  | frame (sc : Scan) (hspace : i.space = .buffer) (hscan : s.activity = .scanning sc) (ht : t = s.turn sc (encode i))
  /-- An operation that was admitted. -/
  | completed (hspace : i.space = .command) (hadmits : s.Admits (readsIds i) (boundedLength i)) (ht : t = completed s i)
  /-- An operation that was refused. -/
  | refused (hspace : i.space = .command) (why : RefusalReason)
      (hwhy : s.refusal (readsIds i) (boundedLength i) = some why) (ht : t = s.refuse why)

theorem exec_cases {i : Instr} {s t : State} (h : exec i s = .next t) : ExecCase i s t := by
  cases hspace : i.space with
  | buffer =>
    obtain ⟨sc, hscan, ht⟩ := exec_buffer hspace h
    exact .frame sc hspace hscan ht
  | command =>
    rw [exec_eq_perform hspace] at h
    rcases State.perform_next h with ⟨hadmits, ht⟩ | ⟨why, hwhy, ht⟩
    · exact .completed hspace hadmits ht
    · exact .refused hspace why hwhy ht

/-- The block's own move is nothing, or the turn of the bytes at the cursor, whether they match a frame row or not. -/
theorem turn_of_ownMove {s t : State} (h : OwnMove s t) :
    ((∀ sc, s.activity ≠ .scanning sc) ∧ t = s) ∨ ∃ sc, s.activity = .scanning sc ∧ t = s.turn sc sc.rest := by
  cases h with
  | rest hact ht => exact .inl ⟨hact, ht⟩
  | frame sc i hscan hdecode ht =>
    rw [frameInstructionAgreesWithItsBytes s sc sc.rest i hscan hdecode] at ht
    cases ht
    exact .inr ⟨sc, hscan, rfl⟩
  | noRow sc e hscan hdecode ht => exact .inr ⟨sc, hscan, ht⟩

/-- Everything a turn of the loop can do. -/
theorem turn_cases (s : State) (sc : Scan) (F : List Byte) :
    (s.idsWritten = false ∧ s.turn sc F = { s with activity := .idle }.refuse .idsUnset) ∨
    (∃ row, s.turn sc F = s.raise (rowKind row)) ∨
    s.turn sc F = s.finish (.remaining sc.rest) ∨
    (s.idsWritten = true ∧ Legal s.ids F ∧ s.turn sc F = s.emit (headerAt F) (messageAt F)
      (F.take (8 + (byteAt F 6).toNat)) (.advance sc (8 + (byteAt F 6).toNat))) := by
  by_cases hw : s.idsWritten = true
  · rcases legal_or_firstIllegal s.ids F with hlegal | ⟨row, -, hfirst⟩
    · exact .inr (.inr (.inr ⟨hw, hlegal, turn_of_legal hw hlegal sc⟩))
    · have ht := turn_of_firstIllegal hw hfirst sc
      split at ht
      · exact .inr (.inr (.inl ht))
      · exact .inr (.inl ⟨row, ht⟩)
  · have hunset : s.idsWritten = false := Bool.eq_false_iff.2 hw
    exact .inl ⟨hunset, turn_of_idsUnset hunset sc F⟩

theorem one_of_legal {s : State} {F : List Byte} (h : Legal s.ids F) (allowPartial : Bool) :
    s.one F allowPartial = s.emit (headerAt F) (messageAt F) (F.take (8 + (byteAt F 6).toNat))
      (.result (.consumed (8 + (byteAt F 6).toNat) (F.drop (8 + (byteAt F 6).toNat)))) := by
  rw [State.one, processFrame_of_legal h]

theorem one_of_firstIllegal {s : State} {F : List Byte} {row : Nat} (h : FirstIllegal s.ids F row) (allowPartial : Bool) :
    s.one F allowPartial =
      if row = 7 ∧ allowPartial = true then s.finish (.consumed 0 F) else s.raise (rowKind row) := by
  rw [State.one, processFrame_of_firstIllegal h]
  by_cases hwait : row = 7 ∧ allowPartial = true
  · rw [if_pos hwait, if_pos hwait]
  · rw [if_neg hwait, if_neg hwait]

/-- Everything PROCESS_ONE can do once it is admitted. -/
theorem one_cases (s : State) (F : List Byte) (allowPartial : Bool) :
    (∃ row, s.one F allowPartial = s.raise (rowKind row)) ∨
    s.one F allowPartial = s.finish (.consumed 0 F) ∨
    (Legal s.ids F ∧ s.one F allowPartial = s.emit (headerAt F) (messageAt F) (F.take (8 + (byteAt F 6).toNat))
      (.result (.consumed (8 + (byteAt F 6).toNat) (F.drop (8 + (byteAt F 6).toNat))))) := by
  rcases legal_or_firstIllegal s.ids F with hlegal | ⟨row, -, hfirst⟩
  · exact .inr (.inr ⟨hlegal, one_of_legal hlegal allowPartial⟩)
  · have ho := one_of_firstIllegal hfirst allowPartial
    split at ho
    · exact .inr (.inl ho)
    · exact .inl ⟨row, ho⟩

/-- Everything the host's return can lead to. -/
theorem resume_cases (s : State) (r : Resume) :
    (∃ v, s.resume r = s.finish v) ∨
    (∃ sc, r = .advance sc 0 ∧ sc.allowPartial = false ∧ s.resume r = s.raise .stuckConsumption) ∨
    ∃ sc n, r = .advance sc n ∧ 0 < n ∧ sc.min < (Scan.rest { sc with pos := sc.pos + n }).length ∧
      s.resume r = { s with activity := .scanning { sc with pos := sc.pos + n } } := by
  cases r with
  | result v => exact .inl ⟨v, rfl⟩
  | advance sc n =>
    cases n with
    | zero =>
      cases hmode : sc.allowPartial with
      | true => exact .inl ⟨.remaining sc.rest, by simp [State.resume, State.afterOne, hmode]⟩
      | false => exact .inr (.inl ⟨sc, rfl, hmode, by simp [State.resume, State.afterOne, hmode]⟩)
    | succ n =>
      rw [State.resume, afterOne_of_pos s sc n.succ_pos]
      rcases loop_cases s { sc with pos := sc.pos + (n + 1) } with ⟨hmore, he⟩ | ⟨-, he⟩
      · exact .inr (.inr ⟨sc, n + 1, rfl, n.succ_pos, hmore, he⟩)
      · exact .inl ⟨_, he⟩

end Sys2Proof.Proofs
end

section
/-! What a step delivers (43 R152, R153, 60 R170, R185 to R187) and what it keeps: at most one output, error kinds only of their
operations, and the invariant of `State.Inv`. -/

namespace Sys2Proof.Proofs

open Sys2Proof Sys2Proof.Machine

/-! ## What is delivered -/

/-- An output a step may deliver when the error kinds open to it are `K`: an MSG keeps its promise (43 R152). -/
def Deliverable (K : ErrorKind → Prop) : Output → Prop
  | .msg h sh raw => ValidDelivery h sh raw
  | .value _ => True
  | .error k => K k
  | .refused _ => True

/-- The outputs that end an operation (43 R158, 60 R186). -/
def EndsOperation : Output → Prop
  | .value _ | .error _ => True
  | .msg _ _ _ | .refused _ => False

/-- From `s` to `t` at most one thing is delivered, an error kind only if it is one of `K`, and what ends the operation
leaves the block idle. -/
def Delivers (K : ErrorKind → Prop) (s t : State) : Prop :=
  t.outputs = s.outputs ∨
    ∃ o, t.outputs = s.outputs ++ [o] ∧ Deliverable K o ∧ (EndsOperation o → t.activity = .idle)

section Operations

variable {K : ErrorKind → Prop} (s : State)

theorem delivers_nothing {s t : State} (h : t.outputs = s.outputs) : Delivers K s t := .inl h

theorem delivers_finish (v : Value) : Delivers K s (s.finish v) := .inr ⟨.value v, rfl, trivial, fun _ => rfl⟩

theorem delivers_raise {k : ErrorKind} (hk : K k) : Delivers K s (s.raise k) := .inr ⟨.error k, rfl, hk, fun _ => rfl⟩

theorem delivers_refuse (r : RefusalReason) : Delivers K s (s.refuse r) := .inr ⟨.refused r, rfl, trivial, False.elim⟩

/-- R110: the MSG of a legal frame. -/
theorem delivers_emit {F : List Byte} (h : Legal s.ids F) (next : Resume) :
    Delivers K s (s.emit (headerAt F) (messageAt F) (F.take (8 + (byteAt F 6).toNat)) next) :=
  .inr ⟨_, rfl, validDelivery_of_legal h, False.elim⟩

theorem delivers_deliver {α : Type} {r : Except ErrorKind α} (hr : ∀ k, r = .error k → K k) (f : α → Value) :
    Delivers K s (s.deliver (r.map f)) := by
  cases r with
  | ok a => exact delivers_finish s (f a)
  | error k => exact delivers_raise s (hr k rfl)

theorem delivers_verdict {e : Option ErrorKind} (he : ∀ k, e = some k → K k) : Delivers K s (s.verdict e) := by
  cases e with
  | none => exact delivers_finish s .ok
  | some k => exact delivers_raise s (he k rfl)

theorem delivers_built (frame : Option (List Byte)) : Delivers K s (s.built frame) := by
  cases frame with
  | none => exact delivers_refuse s .payloadTooLong
  | some bytes => exact delivers_finish s.spoilAcc8.spoilAcc16 (.frame bytes)

theorem delivers_loop (sc : Scan) : Delivers K s (s.loop sc) := by
  rcases loop_cases s sc with ⟨-, he⟩ | ⟨-, he⟩ <;> rw [he]
  · exact delivers_nothing rfl
  · exact delivers_finish s _

theorem delivers_one (hK : ∀ row, K (rowKind row)) (F : List Byte) (allowPartial : Bool) :
    Delivers K s (s.one F allowPartial) := by
  rcases one_cases s F allowPartial with ⟨row, he⟩ | he | ⟨hlegal, he⟩ <;> rw [he]
  · exact delivers_raise s (hK row)
  · exact delivers_finish s _
  · exact delivers_emit s hlegal _

theorem delivers_turn (hK : ∀ row, K (rowKind row)) (sc : Scan) (F : List Byte) : Delivers K s (s.turn sc F) := by
  rcases turn_cases s sc F with ⟨-, he⟩ | ⟨row, he⟩ | he | ⟨-, hlegal, he⟩ <;> rw [he]
  · exact delivers_refuse { s with activity := .idle } .idsUnset
  · exact delivers_raise s (hK row)
  · exact delivers_finish s _
  · exact delivers_emit s hlegal _

theorem delivers_resume {r : Resume} (hK : ∀ sc, r = .advance sc 0 → sc.allowPartial = false → K .stuckConsumption) :
    Delivers K s (s.resume r) := by
  rcases resume_cases s r with ⟨v, he⟩ | ⟨sc, hr, hstrict, he⟩ | ⟨sc, n, -, -, -, he⟩ <;> rw [he]
  · exact delivers_finish s v
  · exact delivers_raise s (hK sc hr hstrict)
  · exact delivers_nothing rfl

end Operations

/-! ## Which error kinds (60 R170) -/

theorem code_rowKind_le (row : Nat) : (rowKind row).code ≤ 11 := by
  unfold rowKind
  split <;> decide

theorem code_of_parseHard {buf : List Byte} {k : ErrorKind} (h : parseHard buf = .error k) : k.code = 1 := by
  rw [parseHard_eq] at h
  split at h <;> cases h
  rfl

theorem code_of_hardError {ids : Ids} {hd : HardHeader} {k : ErrorKind} (h : hardError ids hd = some k) :
    2 ≤ k.code ∧ k.code ≤ 6 := by
  unfold hardError at h
  split_ifs at h <;> cases h <;> decide

theorem code_of_parseSoft {p : List Byte} {n : Byte} {k : ErrorKind} (h : parseSoft p n = .error k) :
    7 ≤ k.code ∧ k.code ≤ 8 := by
  unfold parseSoft at h
  dsimp only at h
  split_ifs at h <;> cases h <;> decide

theorem code_of_softError {ids : Ids} {hd : HardHeader} {sh : SoftMessage} {k : ErrorKind} (h : softError ids hd sh = some k) :
    9 ≤ k.code ∧ k.code ≤ 11 := by
  unfold softError at h
  repeat' split at h
  all_goals cases h
  all_goals decide

/-- An instruction delivers an error kind only of its own, and never 12 or 13. -/
theorem delivers_of_exec {i : Instr} {s t : State} (h : exec i s = .next t) :
    Delivers (fun k => MayRaise i k ∧ k.code ≤ 11) s t := by
  rcases exec_cases h with ⟨sc, hspace, -, rfl⟩ | ⟨hspace, -, rfl⟩ | ⟨-, why, -, rfl⟩
  case refused => exact delivers_refuse s why
  case frame =>
    refine delivers_turn s (fun row => ⟨?_, code_rowKind_le row⟩) sc _
    have hle : (rowKind row).code ≤ 12 := (code_rowKind_le row).trans (by decide)
    cases i with
    | readReq | readResp | writePush | writeAck | frameOther => exact hle
    | _ => cases hspace
  case completed =>
    cases i with
    | readReq | readResp | writePush | writeAck | frameOther => cases hspace
    | crc8Clr | crc8Byte | crc8Read | crc8Msg | crc16Clr | crc16Byte | crc16Read | crc16Msg | setIds =>
      exact .inr ⟨_, rfl, trivial, fun _ => rfl⟩
    | parseHard buf =>
      exact delivers_deliver s.spoilAcc8 (fun k hk => ⟨code_of_parseHard hk, (code_of_parseHard hk).trans_le (by decide)⟩) _
    | validateHard hd =>
      exact delivers_verdict s fun k hk => ⟨code_of_hardError hk, (code_of_hardError hk).2.trans (by decide)⟩
    | parseSoft p n =>
      exact delivers_deliver s.spoilAcc16 (fun k hk => ⟨code_of_parseSoft hk, (code_of_parseSoft hk).2.trans (by decide)⟩) _
    | validateSoft hd sh => exact delivers_verdict s fun k hk => ⟨code_of_softError hk, (code_of_softError hk).2⟩
    | processOne F p =>
      exact delivers_one s.spoilAcc8.spoilAcc16 (fun row => ⟨code_rowKind_le row, code_rowKind_le row⟩) F p
    | processAll F p => exact delivers_loop s.spoilAcc8.spoilAcc16 _
    | buildRead | buildWrite => exact delivers_built s _

/-- Where an error kind that a whole step delivers comes from: the operation requested, the bytes at the cursor of a running
PROCESS_ALL, or the tail of its loop (60 R170). -/
inductive KindOrigin (s : State) (k : ErrorKind) : Prop
  | request (bytes : List Byte) (later : List HostAct) (i : Instr) (hhost : s.host = .request bytes :: later)
      (hdecode : decode .command bytes = .ok i) (hkind : MayRaise i k) (hcode : k.code ≤ 11)
  | cursor (sc : Scan) (hscan : s.activity = .scanning sc) (hunasked : s.Unasked) (hcode : k.code ≤ 11)
  | tail (sc : Scan) (later : List HostAct) (hact : s.activity = .handling (.advance sc 0)) (hhost : s.host = .ack :: later)
      (hstrict : sc.allowPartial = false) (hkind : k = .stuckConsumption)

theorem Delivers.mono {K K' : ErrorKind → Prop} {s t : State} (h : Delivers K s t) (hK : ∀ k, K k → K' k) :
    Delivers K' s t := by
  rcases h with h | ⟨o, ho, hd, hidle⟩
  · exact .inl h
  · refine .inr ⟨o, ho, ?_, hidle⟩
    cases o with
    | error k => exact hK k hd
    | msg | value | refused => exact hd

theorem delivers_of_step {s t : State} (h : step s = .next t) : Delivers (KindOrigin s) s t := by
  rcases step_cases h with ⟨hunasked, hown⟩ | ⟨r, later, hact, hhost, rfl⟩ | ⟨bytes, later, i, hhost, hdecode, hexec⟩ |
    ⟨bytes, later, e, hhost, hdecode, hreject⟩ | ⟨later, hhost, rfl⟩
  case own =>
    rcases turn_of_ownMove hown with ⟨-, rfl⟩ | ⟨sc, hscan, rfl⟩
    · exact delivers_nothing rfl
    · exact delivers_turn { s with host := s.host.tail } (fun row => .cursor sc hscan hunasked (code_rowKind_le row)) sc _
  case handled =>
    exact delivers_resume { s with host := later } fun sc hr hstrict => .tail sc later (hr ▸ hact) hhost hstrict rfl
  case request =>
    have hdelivers : Delivers _ s t := delivers_of_exec (s := { s with host := later }) hexec
    exact hdelivers.mono fun k hk => .request bytes later i hhost hdecode hk.1 hk.2
  case rejected =>
    obtain ⟨why, rfl, -⟩ := State.rejectRequest_next hreject
    exact delivers_refuse { s with host := later } why
  case reset => exact delivers_nothing rfl

/-- The only thing a step delivers is the one it is known to deliver. -/
theorem kind_of_delivers {K : ErrorKind → Prop} {s t : State} {new : List Output} {k : ErrorKind} (h : Delivers K s t)
    (hnew : t.outputs = s.outputs ++ new) (hk : .error k ∈ new) : K k := by
  rcases h with h | ⟨o, ho, hd, -⟩
  · rw [h, List.self_eq_append_right] at hnew
    rw [hnew] at hk
    cases hk
  · rw [ho, List.append_cancel_left_eq] at hnew
    rw [← hnew, List.mem_singleton] at hk
    rwa [← hk] at hd

/-- Settles O39: the codes by evaluation; an instruction and a step deliver no error kind but those of `delivers_of_exec` and
`delivers_of_step`. -/
theorem errorKindsComeFromTheirOperations : Obligations.ErrorKindsComeFromTheirOperations := by
  refine ⟨rfl, fun _ => rfl, fun _ => rfl,
    fun i s t new k hexec hnew hk => (kind_of_delivers (delivers_of_exec hexec) hnew hk).1,
    fun s t new k hstep hnew hk => ?origin⟩
  case origin =>
    cases kind_of_delivers (delivers_of_step hstep) hnew hk with
    | request bytes later i hhost hdecode hkind _ => exact .inl ⟨bytes, later, i, hhost, hdecode, hkind⟩
    | cursor sc hscan hunasked hcode => exact .inr (.inl ⟨sc, hscan, hunasked, hcode⟩)
    | tail sc later hact hhost hstrict hkind => exact .inr (.inr ⟨sc, later, hact, hhost, hstrict, hkind⟩)

/-- Settles O44: a step delivers at most one output, and an error kind or a value is one that leaves the block idle. -/
theorem outputsOnlyGrow : Obligations.OutputsOnlyGrow := by
  intro s t hstep
  rcases delivers_of_step hstep with h | ⟨o, ho, -, hidle⟩
  · exact ⟨[], by simpa using h, by decide, by simp, by simp⟩
  · refine ⟨[o], ho, le_rfl, fun k hk => hidle ?_, fun v hv => hidle ?_⟩
    · rw [← List.mem_singleton.1 hk]; trivial
    · rw [← List.mem_singleton.1 hv]; trivial

/-! ## The invariant -/

/-- What is in progress is something a run can reach (the first part of `State.Inv`). -/
def Consistent (s : State) : Prop := s.activity.Consistent s.idsWritten

theorem consistent_idle {s : State} (h : s.activity = .idle) : Consistent s := by
  rw [Consistent, h]
  trivial

theorem consistent_deliver (s : State) (r : Except ErrorKind Value) : Consistent (s.deliver r) := by
  cases r <;> exact consistent_idle rfl

theorem consistent_verdict (s : State) (e : Option ErrorKind) : Consistent (s.verdict e) := by
  cases e <;> exact consistent_idle rfl

theorem consistent_built {s : State} (hs : Consistent s) (frame : Option (List Byte)) : Consistent (s.built frame) := by
  cases frame with
  | none => exact hs
  | some bytes => exact consistent_idle rfl

/-- PROCESS_ALL's loop goes on only with more than `min` bytes left. -/
theorem consistent_loop {s : State} (hw : s.idsWritten = true) (sc : Scan) : Consistent (s.loop sc) := by
  rcases loop_cases s sc with ⟨hmore, he⟩ | ⟨-, he⟩ <;> rw [he]
  · exact ⟨hw, hmore⟩
  · exact consistent_idle rfl

theorem consistent_one {s : State} (hw : s.idsWritten = true) (F : List Byte) (allowPartial : Bool) :
    Consistent (s.one F allowPartial) := by
  rcases one_cases s F allowPartial with ⟨row, he⟩ | he | ⟨hlegal, he⟩ <;> rw [he]
  · exact consistent_idle rfl
  · exact consistent_idle rfl
  · obtain ⟨hmin, -⟩ := hlegal.length
    exact ⟨hw, _, _, rfl, by omega⟩

/-- A frame delivered at the cursor stands there whole. -/
theorem consistent_turn (s : State) (sc : Scan) : Consistent (s.turn sc sc.rest) := by
  rcases turn_cases s sc sc.rest with ⟨-, he⟩ | ⟨row, he⟩ | he | ⟨hw, hlegal, he⟩ <;> rw [he]
  · exact consistent_idle rfl
  · exact consistent_idle rfl
  · exact consistent_idle rfl
  · obtain ⟨hmin, hfits⟩ := hlegal.length
    have hrest : sc.rest.length = sc.buffer.length - sc.pos := List.length_drop ..
    exact ⟨hw, by omega, by omega⟩

theorem consistent_resume {s : State} {r : Resume} (h : Activity.Consistent (.handling r) s.idsWritten) :
    Consistent (s.resume r) := by
  rcases resume_cases s r with ⟨v, he⟩ | ⟨sc, -, -, he⟩ | ⟨sc, n, rfl, -, hmore, he⟩ <;> rw [he]
  · exact consistent_idle rfl
  · exact consistent_idle rfl
  · exact ⟨h.1, hmore⟩

/-- An operation begins on an idle block, and all but the two that emit MSG end at once. -/
theorem consistent_of_exec_command {i : Instr} {s t : State} (hspace : i.space = .command) (h : exec i s = .next t)
    (hs : Consistent s) : Consistent t := by
  rcases exec_cases h with ⟨sc, hspace', -, -⟩ | ⟨-, hadmits, rfl⟩ | ⟨-, why, -, rfl⟩
  case frame => rw [hspace] at hspace'; cases hspace'
  case refused => exact hs
  case completed =>
    cases i with
    | readReq | readResp | writePush | writeAck | frameOther => cases hspace
    | crc8Clr | crc8Byte | crc8Read | crc8Msg | crc16Clr | crc16Byte | crc16Read | crc16Msg | setIds =>
      exact consistent_idle rfl
    | parseHard => exact consistent_deliver s.spoilAcc8 _
    | parseSoft => exact consistent_deliver s.spoilAcc16 _
    | validateHard | validateSoft => exact consistent_verdict s _
    | processOne F p => exact consistent_one (s := s.spoilAcc8.spoilAcc16) (hadmits.ids rfl) F p
    | processAll F p => exact consistent_loop (s := s.spoilAcc8.spoilAcc16) (hadmits.ids rfl) _
    | buildRead | buildWrite => exact consistent_built hs _

theorem consistent_of_step {s t : State} (hs : Consistent s) (h : step s = .next t) : Consistent t := by
  rcases step_cases h with ⟨-, hown⟩ | ⟨r, later, hact, -, rfl⟩ | ⟨bytes, later, i, -, hdecode, hexec⟩ |
    ⟨bytes, later, e, -, -, hreject⟩ | ⟨later, -, rfl⟩
  case own =>
    rcases turn_of_ownMove hown with ⟨-, rfl⟩ | ⟨sc, -, rfl⟩
    · exact hs
    · exact consistent_turn _ sc
  case handled => exact consistent_resume (s := { s with host := later }) (hact ▸ hs)
  case request => exact consistent_of_exec_command (decode_command_space hdecode) hexec hs
  case rejected =>
    obtain ⟨why, rfl, -⟩ := State.rejectRequest_next hreject
    exact hs
  case reset => exact consistent_idle rfl

/-- On a state that meets the invariant no loop has consumed nothing, so no step raises 12; none raises 13 anywhere. -/
theorem sound_of_deliverable {s : State} (hs : Consistent s) {o : Output} (h : Deliverable (KindOrigin s) o) : o.Sound := by
  cases o with
  | msg | value | refused => exact h
  | error k =>
    have hcode : k.code ≤ 11 := by
      cases h with
      | request _ _ _ _ _ _ hcode => exact hcode
      | cursor _ _ _ hcode => exact hcode
      | tail sc later hact =>
        rw [Consistent, hact] at hs
        exact absurd hs.2.1 (by decide)
    constructor <;> rintro rfl <;> exact absurd hcode (by decide)

/-- Settles O45: after reset the block is idle and has delivered nothing. -/
theorem invariantHoldsAtReset : Obligations.InvariantHoldsAtReset :=
  { activity := trivial, outputs := fun _ ho => nomatch ho }

/-- Settles O46: what is in progress stays consistent, and the one output a step adds is sound. -/
theorem everyStepKeepsTheInvariant : Obligations.EveryStepKeepsTheInvariant := by
  intro s t hs hstep
  refine { activity := consistent_of_step hs.activity hstep, outputs := fun o ho => ?_ }
  rcases delivers_of_step hstep with h | ⟨new, hnew, hd, -⟩
  · exact hs.outputs o (h ▸ ho)
  · rw [hnew, List.mem_append, List.mem_singleton] at ho
    rcases ho with hold | rfl
    · exact hs.outputs o hold
    · exact sound_of_deliverable hs.activity hd

end Sys2Proof.Proofs
end

section
/-! What an instruction leaves alone and what it depends on (10_state R21, 93 U2, 41 R113): the write table, the free values of
the accumulators, and the decoder's outcomes on two states with the same ids. -/

namespace Sys2Proof.Proofs

open Sys2Proof Sys2Proof.Machine

/-! ## What the end of an operation leaves alone -/

/-- From `s` to `t` only the activity and the outputs move. -/
def OnlyDelivers (s t : State) : Prop := t = { s with activity := t.activity, outputs := t.outputs }

section

variable {s t : State} (h : OnlyDelivers s t)
include h

theorem OnlyDelivers.eq : t = { s with activity := t.activity, outputs := t.outputs } := h

theorem OnlyDelivers.acc8 : t.acc8 = s.acc8 := by rw [h.eq]
theorem OnlyDelivers.acc16 : t.acc16 = s.acc16 := by rw [h.eq]
theorem OnlyDelivers.draws : t.draws = s.draws := by rw [h.eq]
theorem OnlyDelivers.host : t.host = s.host := by rw [h.eq]
theorem OnlyDelivers.bufMax : t.bufMax = s.bufMax := by rw [h.eq]

end

theorem onlyDelivers_deliver (s : State) (r : Except ErrorKind Value) : OnlyDelivers s (s.deliver r) := by
  cases r <;> rfl

theorem onlyDelivers_verdict (s : State) (e : Option ErrorKind) : OnlyDelivers s (s.verdict e) := by
  cases e <;> rfl

theorem onlyDelivers_loop (s : State) (sc : Scan) : OnlyDelivers s (s.loop sc) := by
  rcases loop_cases s sc with ⟨-, he⟩ | ⟨-, he⟩ <;> rw [he] <;> rfl

theorem onlyDelivers_one (s : State) (F : List Byte) (allowPartial : Bool) : OnlyDelivers s (s.one F allowPartial) := by
  rcases one_cases s F allowPartial with ⟨row, he⟩ | he | ⟨-, he⟩ <;> rw [he] <;> rfl

theorem onlyDelivers_turn (s : State) (sc : Scan) (F : List Byte) : OnlyDelivers s (s.turn sc F) := by
  rcases turn_cases s sc F with ⟨-, he⟩ | ⟨row, he⟩ | he | ⟨-, -, he⟩ <;> rw [he] <;> rfl

/-! ## The write table (10_state R21) -/

/-- R21's column of `ACC8`: what writes it or leaves it unspecified. -/
def writesAcc8 : Instr → Bool
  | .crc8Clr | .crc8Byte _ | .crc8Msg _ | .parseHard _ | .processOne _ _ | .processAll _ _ | .buildRead .. | .buildWrite .. =>
    true
  | _ => false

/-- R21's column of `ACC16`. -/
def writesAcc16 : Instr → Bool
  | .crc16Clr | .crc16Byte _ | .crc16Msg _ | .parseSoft _ _ | .processOne _ _ | .processAll _ _ | .buildRead ..
  | .buildWrite .. => true
  | _ => false

theorem acc8_of_exec {i : Instr} {s t : State} (h : exec i s = .next t) (hi : writesAcc8 i = false) : t.acc8 = s.acc8 := by
  rcases exec_cases h with ⟨sc, -, -, rfl⟩ | ⟨hspace, -, rfl⟩ | ⟨-, why, -, rfl⟩
  case frame => exact (onlyDelivers_turn s sc _).acc8
  case refused => rfl
  case completed =>
    cases i with
    | validateHard | validateSoft => exact (onlyDelivers_verdict s _).acc8
    | parseSoft => exact (onlyDelivers_deliver s.spoilAcc16 _).acc8
    | crc8Clr | crc8Byte | crc8Msg | parseHard | processOne | processAll | buildRead | buildWrite => cases hi
    | _ => rfl

theorem acc16_of_exec {i : Instr} {s t : State} (h : exec i s = .next t) (hi : writesAcc16 i = false) :
    t.acc16 = s.acc16 := by
  rcases exec_cases h with ⟨sc, -, -, rfl⟩ | ⟨hspace, -, rfl⟩ | ⟨-, why, -, rfl⟩
  case frame => exact (onlyDelivers_turn s sc _).acc16
  case refused => rfl
  case completed =>
    cases i with
    | validateHard | validateSoft => exact (onlyDelivers_verdict s _).acc16
    | parseHard => exact (onlyDelivers_deliver s.spoilAcc8 _).acc16
    | crc16Clr | crc16Byte | crc16Msg | parseSoft | processOne | processAll | buildRead | buildWrite => cases hi
    | _ => rfl

theorem script_of_built (s : State) (frame : Option (List Byte)) :
    (s.built frame).host = s.host ∧ (s.built frame).bufMax = s.bufMax := by
  cases frame <;> exact ⟨rfl, rfl⟩

theorem script_of_onlyDelivers {s t : State} (h : OnlyDelivers s t) : t.host = s.host ∧ t.bufMax = s.bufMax :=
  ⟨h.host, h.bufMax⟩

/-- No instruction touches the host's script or the parameter. -/
theorem script_of_exec {i : Instr} {s t : State} (h : exec i s = .next t) : t.host = s.host ∧ t.bufMax = s.bufMax := by
  rcases exec_cases h with ⟨sc, -, -, rfl⟩ | ⟨hspace, -, rfl⟩ | ⟨-, why, -, rfl⟩
  case frame => exact script_of_onlyDelivers (onlyDelivers_turn s sc _)
  case refused => exact ⟨rfl, rfl⟩
  case completed =>
    cases i with
    | parseHard => exact script_of_onlyDelivers (s := s.spoilAcc8) (onlyDelivers_deliver s.spoilAcc8 _)
    | parseSoft => exact script_of_onlyDelivers (s := s.spoilAcc16) (onlyDelivers_deliver s.spoilAcc16 _)
    | validateHard | validateSoft => exact script_of_onlyDelivers (onlyDelivers_verdict s _)
    | processOne => exact script_of_onlyDelivers (s := s.spoilAcc8.spoilAcc16) (onlyDelivers_one s.spoilAcc8.spoilAcc16 _ _)
    | processAll => exact script_of_onlyDelivers (s := s.spoilAcc8.spoilAcc16) (onlyDelivers_loop s.spoilAcc8.spoilAcc16 _)
    | buildRead | buildWrite => exact script_of_built s _
    | _ => exact ⟨rfl, rfl⟩

theorem frame_writes_no_acc {i : Instr} (h : i.space = .buffer) : writesAcc8 i = false ∧ writesAcc16 i = false := by
  cases i with
  | readReq | readResp | writePush | writeAck | frameOther => exact ⟨rfl, rfl⟩
  | _ => cases h

/-- Settles O37: the instructions named are those whose entry in R21's column is empty. -/
theorem instructionsWriteOnlyTheirRegisters : Obligations.InstructionsWriteOnlyTheirRegisters := by
  intro i s t h
  refine ⟨fun hi => acc8_of_exec h ?acc8, fun hi => acc16_of_exec h ?acc16, fun hi => sameIds_of_exec hi h,
    script_of_exec h⟩
  case acc8 =>
    rcases hi with hi | rfl | ⟨_, rfl⟩ | ⟨_, _, rfl⟩ | ⟨_, _, rfl⟩ | ⟨_, _, _, _, rfl⟩ | rfl | ⟨_, rfl⟩ | rfl | ⟨_, rfl⟩
    · exact (frame_writes_no_acc hi).1
    all_goals rfl
  case acc16 =>
    rcases hi with hi | rfl | ⟨_, rfl⟩ | ⟨_, rfl⟩ | ⟨_, _, rfl⟩ | ⟨_, _, _, _, rfl⟩ | rfl | ⟨_, rfl⟩ | rfl | ⟨_, rfl⟩
    · exact (frame_writes_no_acc hi).2
    all_goals rfl

/-! ## Free values (93 U2) -/

/-- A request that was not refused was admitted, and is completed. -/
theorem eq_completed_of_not_refused {i : Instr} {s t : State} (h : exec i s = .next t)
    (hne : ∀ r, t.outputs ≠ s.outputs ++ [Output.refused r]) (hspace : i.space = .command) : t = completed s i := by
  rcases exec_cases h with ⟨sc, hspace', -, -⟩ | ⟨-, -, ht⟩ | ⟨-, why, -, rfl⟩
  case frame => rw [hspace] at hspace'; cases hspace'
  case completed => exact ht
  case refused => exact absurd rfl (hne why)

theorem accs_of_onlyDelivers {s t : State} (h : OnlyDelivers s t) :
    t.acc8 = s.acc8 ∧ t.acc16 = s.acc16 ∧ t.draws = s.draws :=
  ⟨h.acc8, h.acc16, h.draws⟩

/-- A builder that is not refused has left both accumulators unspecified, `ACC8` first (10_state R21). -/
theorem accs_of_built {s : State} {frame : Option (List Byte)}
    (hne : ∀ r, (s.built frame).outputs ≠ s.outputs ++ [Output.refused r]) :
    (s.built frame).acc8 = Config.freeAcc8 s.draws ∧ (s.built frame).acc16 = Config.freeAcc16 (s.draws + 1) ∧
      (s.built frame).draws = s.draws + 2 := by
  cases frame with
  | none => exact absurd rfl (hne .payloadTooLong)
  | some bytes => exact ⟨rfl, rfl, rfl⟩

/-- Settles O7: an operation that was not refused is completed on the spoilt accumulators, and its end leaves them alone. -/
theorem unspecifiedAccumulatorsAreFreeValues : Obligations.UnspecifiedAccumulatorsAreFreeValues := by
  intro s t i h hne
  refine ⟨?acc8, ?acc16, ?both⟩
  case acc8 =>
    rintro (⟨b, rfl⟩ | ⟨b, rfl⟩)
    · rw [eq_completed_of_not_refused h hne rfl]
      exact ⟨rfl, rfl⟩
    · rw [eq_completed_of_not_refused h hne rfl]
      obtain ⟨h8, -, hd⟩ := accs_of_onlyDelivers (onlyDelivers_deliver s.spoilAcc8 ((parseHard b).map .header))
      exact ⟨h8, hd⟩
  case acc16 =>
    rintro (⟨b, rfl⟩ | ⟨p, n, rfl⟩)
    · rw [eq_completed_of_not_refused h hne rfl]
      exact ⟨rfl, rfl⟩
    · rw [eq_completed_of_not_refused h hne rfl]
      obtain ⟨-, h16, hd⟩ := accs_of_onlyDelivers (onlyDelivers_deliver s.spoilAcc16 ((parseSoft p n).map .message))
      exact ⟨h16, hd⟩
  case both =>
    rintro (⟨b, p, rfl⟩ | ⟨b, p, rfl⟩ | ⟨d, c, dl, cl, st, n, rfl⟩ | ⟨d, c, dl, cl, st, n, v, rfl⟩)
    · rw [eq_completed_of_not_refused h hne rfl]
      exact accs_of_onlyDelivers (onlyDelivers_one s.spoilAcc8.spoilAcc16 b p)
    · rw [eq_completed_of_not_refused h hne rfl]
      exact accs_of_onlyDelivers (onlyDelivers_loop s.spoilAcc8.spoilAcc16 ⟨b, 0, p⟩)
    · cases eq_completed_of_not_refused h hne rfl
      exact accs_of_built hne
    · cases eq_completed_of_not_refused h hne rfl
      exact accs_of_built hne

/-! ## Noninterference of the decoder (41 R113) -/

/-- `t₁` and `t₂` go on alike from `s₁` and `s₂`: the same activity, the same outputs added. -/
def Alike (s₁ s₂ t₁ t₂ : State) : Prop :=
  t₁.activity = t₂.activity ∧ ∃ new, t₁.outputs = s₁.outputs ++ new ∧ t₂.outputs = s₂.outputs ++ new

section TwoStates

variable (s₁ s₂ : State)

theorem alike_finish (v : Value) : Alike s₁ s₂ (s₁.finish v) (s₂.finish v) := ⟨rfl, _, rfl, rfl⟩

theorem alike_raise (k : ErrorKind) : Alike s₁ s₂ (s₁.raise k) (s₂.raise k) := ⟨rfl, _, rfl, rfl⟩

theorem alike_deliver (r : Except ErrorKind Value) : Alike s₁ s₂ (s₁.deliver r) (s₂.deliver r) := by
  cases r with
  | ok v => exact alike_finish s₁ s₂ v
  | error k => exact alike_raise s₁ s₂ k

theorem alike_verdict (e : Option ErrorKind) : Alike s₁ s₂ (s₁.verdict e) (s₂.verdict e) := by
  cases e with
  | none => exact alike_finish s₁ s₂ .ok
  | some k => exact alike_raise s₁ s₂ k

theorem alike_loop (sc : Scan) : Alike s₁ s₂ (s₁.loop sc) (s₂.loop sc) := by
  unfold State.loop
  split
  · exact ⟨rfl, [], by simp, by simp⟩
  · exact alike_finish s₁ s₂ _

variable {s₁ s₂} (hids : s₁.ids = s₂.ids)
include hids

theorem alike_one (F : List Byte) (allowPartial : Bool) : Alike s₁ s₂ (s₁.one F allowPartial) (s₂.one F allowPartial) := by
  unfold State.one
  rw [hids]
  cases processFrame s₂.ids F allowPartial <;> exact ⟨rfl, _, rfl, rfl⟩

theorem alike_turn (hw : s₁.idsWritten = s₂.idsWritten) (sc : Scan) (F : List Byte) :
    Alike s₁ s₂ (s₁.turn sc F) (s₂.turn sc F) := by
  cases hw₂ : s₂.idsWritten with
  | false =>
    rw [turn_of_idsUnset (hw.trans hw₂), turn_of_idsUnset hw₂]
    exact ⟨rfl, _, rfl, rfl⟩
  | true =>
    rcases legal_or_firstIllegal s₂.ids F with hlegal | ⟨row, -, hfirst⟩
    · rw [turn_of_legal (hw.trans hw₂) (hids ▸ hlegal), turn_of_legal hw₂ hlegal]
      exact ⟨rfl, _, rfl, rfl⟩
    · rw [turn_of_firstIllegal (hw.trans hw₂) (hids ▸ hfirst), turn_of_firstIllegal hw₂ hfirst]
      exact ⟨rfl, _, rfl, rfl⟩

end TwoStates

/-- Whether a request is refused, and as what, is decided by the activity, `IDS_WRITTEN` and `BUF_MAX` (60 R184). -/
theorem refusal_congr {s₁ s₂ : State} (hw : s₁.idsWritten = s₂.idsWritten) (hact : s₁.activity = s₂.activity)
    (hmax : s₁.bufMax = s₂.bufMax) (reads : Bool) (len : Nat) : s₁.refusal reads len = s₂.refusal reads len := by
  cases s₁
  cases s₂
  cases hw
  cases hact
  cases hmax
  rfl

/-- An operation of the decoder, or a frame at the cursor. -/
def OfDecoder (i : Instr) : Prop :=
  (∃ buf, i = .parseHard buf) ∨ (∃ h, i = .validateHard h) ∨ (∃ p n, i = .parseSoft p n) ∨
    (∃ h m, i = .validateSoft h m) ∨ (∃ b p, i = .processOne b p) ∨ (∃ b p, i = .processAll b p) ∨ i.space = .buffer

theorem alike_completed {i : Instr} (hi : OfDecoder i) (hspace : i.space = .command) {s₁ s₂ : State} (hids : s₁.ids = s₂.ids) :
    Alike s₁ s₂ (completed s₁ i) (completed s₂ i) := by
  rcases hi with ⟨buf, rfl⟩ | ⟨h, rfl⟩ | ⟨p, n, rfl⟩ | ⟨h, m, rfl⟩ | ⟨b, p, rfl⟩ | ⟨b, p, rfl⟩ | hbuffer
  · exact alike_deliver s₁.spoilAcc8 s₂.spoilAcc8 _
  · simp only [completed, hids]
    exact alike_verdict s₁ s₂ _
  · exact alike_deliver s₁.spoilAcc16 s₂.spoilAcc16 _
  · simp only [completed, hids]
    exact alike_verdict s₁ s₂ _
  · exact alike_one (s₁ := s₁.spoilAcc8.spoilAcc16) (s₂ := s₂.spoilAcc8.spoilAcc16) hids b p
  · exact alike_loop s₁.spoilAcc8.spoilAcc16 s₂.spoilAcc8.spoilAcc16 _
  · rw [hspace] at hbuffer
    cases hbuffer

theorem not_setIds_of_decoder {i : Instr} (hi : OfDecoder i) (c d : Byte) (cl dl : Half) : i ≠ .setIds c d cl dl := by
  rintro rfl
  rcases hi with ⟨_, hi⟩ | ⟨_, hi⟩ | ⟨_, _, hi⟩ | ⟨_, _, hi⟩ | ⟨_, _, hi⟩ | ⟨_, _, hi⟩ | hi <;> cases hi

/-- Two states with the same ids, `IDS_WRITTEN`, activity and `BUF_MAX` answer an instruction of the decoder alike. -/
theorem exists_alike_of_exec {i : Instr} (hi : OfDecoder i) {s₁ s₂ t₁ : State} (hids : s₁.ids = s₂.ids)
    (hw : s₁.idsWritten = s₂.idsWritten) (hact : s₁.activity = s₂.activity) (hmax : s₁.bufMax = s₂.bufMax)
    (h : exec i s₁ = .next t₁) : ∃ t₂, exec i s₂ = .next t₂ ∧ Alike s₁ s₂ t₁ t₂ := by
  have hrefusal := refusal_congr hw hact hmax (readsIds i) (boundedLength i)
  rcases exec_cases h with ⟨sc, hspace, hscan, rfl⟩ | ⟨hspace, hadmits, rfl⟩ | ⟨hspace, why, hwhy, rfl⟩
  case frame => exact ⟨_, exec_frame hspace (hact ▸ hscan), alike_turn hids hw sc _⟩
  case completed =>
    refine ⟨completed s₂ i, ?_, alike_completed hi hspace hids⟩
    rw [exec_eq_perform hspace]
    exact State.perform_of_admits (State.admits_of_refusal (hrefusal ▸ State.refusal_of_admits hadmits)) _
  case refused =>
    refine ⟨s₂.refuse why, ?_, hact, _, rfl, rfl⟩
    rw [exec_eq_perform hspace, State.perform, ← hrefusal, hwhy]

/-- Settles O24: the second state answers alike, and an instruction of the decoder is not SET_IDS. -/
theorem decoderOutcomesDependOnOperandsAndIds : Obligations.DecoderOutcomesDependOnOperandsAndIds := by
  intro i s₁ s₂ t₁ hi hids hw hact hmax h
  obtain ⟨t₂, h₂, hactivity, new, hnew₁, hnew₂⟩ := exists_alike_of_exec hi hids hw hact hmax h
  exact ⟨t₂, new, h₂, hnew₁, hnew₂, hactivity, sameIds_of_exec (not_setIds_of_decoder hi) h⟩

end Sys2Proof.Proofs
end

section
/-! A whole step and the host (10_state R12, R14, 43 R153, R154, R159, 60 R184, R188, R189): the ids and the cursor, a busy
block, a block that is asked nothing, refusals that change nothing, and that no step faults. -/

namespace Sys2Proof.Proofs

open Sys2Proof Sys2Proof.Machine

/-! ## The ids and the cursor -/

theorem sameIds_resume (s : State) (r : Resume) : SameIds s (s.resume r) := by
  cases r with
  | result v => exact sameIds_finish s v
  | advance sc n => exact sameIds_afterOne s sc n

/-- SET_IDS that changed something was admitted: it found the block idle and wrote what it was given. -/
theorem setIds_of_changed {s t : State} {ch dh : Byte} {cl dl : Half} (h : exec (.setIds ch dh cl dl) s = .next t)
    (hchanged : ¬ SameIds s t) : s.activity = .idle ∧ t.ids = ⟨ch, dh, cl, dl⟩ ∧ t.idsWritten = true := by
  rcases exec_cases h with ⟨sc, hspace, -, -⟩ | ⟨-, hadmits, rfl⟩ | ⟨-, why, -, rfl⟩
  case frame => cases hspace
  case completed => exact ⟨hadmits.idle, rfl, rfl⟩
  case refused => exact absurd (sameIds_refuse s why) hchanged

/-- Settles O38: of the five things a step can be, only a request of SET_IDS and reset do not leave the ids as they are. -/
theorem onlySetIdsAndResetTouchTheIds : Obligations.OnlySetIdsAndResetTouchTheIds := by
  intro s t hstep hids
  have hchanged : ¬ SameIds s t := not_and_or.2 hids
  rcases step_cases hstep with ⟨-, hown⟩ | ⟨r, later, -, -, rfl⟩ | ⟨bytes, later, i, hhost, hdecode, hexec⟩ |
    ⟨bytes, later, e, -, -, hreject⟩ | ⟨later, hhost, rfl⟩
  case own =>
    rcases turn_of_ownMove hown with ⟨-, rfl⟩ | ⟨sc, -, rfl⟩
    · exact absurd ⟨rfl, rfl⟩ hchanged
    · exact absurd (sameIds_turn { s with host := s.host.tail } sc _) hchanged
  case handled => exact absurd (sameIds_resume { s with host := later } r) hchanged
  case request =>
    obtain ⟨ch, dh, cl, dl, rfl⟩ := exists_setIds_of_not_sameIds (s := { s with host := later }) hexec hchanged
    obtain ⟨hidle, hwrites, hwritten⟩ := setIds_of_changed (s := { s with host := later }) hexec hchanged
    exact ⟨later, .inr ⟨bytes, ch, dh, cl, dl, hhost, hidle, hdecode, hwrites, hwritten⟩⟩
  case rejected =>
    obtain ⟨why, rfl, -⟩ := State.rejectRequest_next hreject
    exact absurd (sameIds_refuse { s with host := later } why) hchanged
  case reset => exact ⟨later, .inl hhost⟩

/-- An operation that is requested during another is refused `Busy` (43 R154). -/
theorem exec_of_busy {i : Instr} (hspace : i.space = .command) {s : State} (hbusy : s.activity ≠ .idle) :
    exec i s = .next (s.refuse .busy) := by
  have hrefusal : s.refusal (readsIds i) (boundedLength i) = some .busy := if_pos (decide_eq_true hbusy)
  rw [exec_eq_perform hspace, State.perform, hrefusal]

/-- A turn of the loop leaves the cursor where it is, if it leaves one. -/
theorem cursor_of_turn {s : State} {sc sc' : Scan} {F : List Byte} (h : (s.turn sc F).activity.cursor = some sc') :
    sc' = sc := by
  rcases turn_cases s sc F with ⟨-, he⟩ | ⟨row, he⟩ | he | ⟨-, -, he⟩ <;> rw [he] at h <;> cases h
  rfl

/-- Settles O42: the loop's turn and a refused request leave the cursor; the host's return moves it by what the frame
consumed; every other step leaves no cursor at all. -/
theorem theCursorMovesOnlyPastDeliveredFrames : Obligations.TheCursorMovesOnlyPastDeliveredFrames := by
  intro s t sc sc' hstep hs ht
  have hbusy : s.activity ≠ .idle := by
    intro hidle
    rw [hidle] at hs
    cases hs
  suffices h : sc' = sc ∨ ∃ n later, s.activity = .handling (.advance sc n) ∧ s.host = .ack :: later ∧
      sc' = { sc with pos := sc.pos + n } by
    rcases h with rfl | ⟨n, later, hact, hhost, rfl⟩
    · exact ⟨rfl, rfl, .inl rfl⟩
    · exact ⟨rfl, rfl, .inr ⟨n, later, hact, hhost, rfl⟩⟩
  rcases step_cases hstep with ⟨-, hown⟩ | ⟨r, later, hact, hhost, rfl⟩ | ⟨bytes, later, i, -, hdecode, hexec⟩ |
    ⟨bytes, later, e, -, -, hreject⟩ | ⟨later, -, rfl⟩
  case own =>
    rcases turn_of_ownMove hown with ⟨-, rfl⟩ | ⟨sc₀, hscan, rfl⟩
    · exact .inl (Option.some.inj (ht.symm.trans hs))
    · rw [hscan] at hs
      cases hs
      exact .inl (cursor_of_turn ht)
  case handled =>
    rcases resume_cases { s with host := later } r with ⟨v, he⟩ | ⟨sc₀, -, -, he⟩ | ⟨sc₀, n, rfl, -, -, he⟩ <;>
      rw [he] at ht <;> cases ht
    rw [hact] at hs
    cases hs
    exact .inr ⟨n, later, hact, hhost, rfl⟩
  case request =>
    rw [exec_of_busy (s := { s with host := later }) (decode_command_space hdecode) hbusy] at hexec
    cases hexec
    exact .inl (Option.some.inj (ht.symm.trans hs))
  case rejected =>
    obtain ⟨why, rfl, -⟩ := State.rejectRequest_next hreject
    exact .inl (Option.some.inj (ht.symm.trans hs))
  case reset => cases ht

/-! ## A busy block and a block that is asked nothing -/

/-- Settles O41: the host asks nothing and nothing happens, or it requests something and is refused. -/
theorem handlingBlocksUntilTheHostReturns : Obligations.HandlingBlocksUntilTheHostReturns := by
  intro s t r hact hstep
  have hbusy : s.activity ≠ .idle := by simp [hact]
  rcases step_cases hstep with ⟨-, hown⟩ | ⟨r, later, -, hhost, rfl⟩ | ⟨bytes, later, i, -, hdecode, hexec⟩ |
    ⟨bytes, later, e, -, -, hreject⟩ | ⟨later, hhost, rfl⟩
  case own =>
    rcases turn_of_ownMove hown with ⟨-, rfl⟩ | ⟨sc, hscan, -⟩
    · exact .inr ⟨rfl, .inl rfl⟩
    · cases hact.symm.trans hscan
  case handled => exact .inl ⟨later, .inl hhost⟩
  case request =>
    rw [exec_of_busy (s := { s with host := later }) (decode_command_space hdecode) hbusy] at hexec
    cases hexec
    exact .inr ⟨rfl, .inr rfl⟩
  case rejected =>
    obtain ⟨why, rfl, ⟨rfl, -⟩ | ⟨-, hidle, -⟩⟩ := State.rejectRequest_next hreject
    · exact .inr ⟨rfl, .inr rfl⟩
    · exact absurd hidle hbusy
  case reset => exact .inl ⟨later, .inr hhost⟩

theorem step_of_idle {s : State} (hidle : s.activity = .idle) (hunasked : s.Unasked) :
    step s = .next { s with host := s.host.tail } := by
  rw [step_of_unasked hunasked, ownMove_of_not_scanning (by simp [hidle])]

/-- Settles O43: an idle block that is asked nothing has no move, and a PROCESS_ONE that is resumed delivers its result. -/
theorem blockDoesNothingUnasked : Obligations.BlockDoesNothingUnasked := by
  refine ⟨fun s hidle hhost => ?script, fun s a later hidle hhost ha => ?act, fun s v later hact hhost => ?result⟩
  case script => rw [step_of_idle hidle (.inl hhost), consume_of_no_act hhost]
  case act => rw [step_of_idle hidle (unasked_of_act hhost ha (by simp [hidle])), hhost, List.tail_cons]
  case result =>
    rw [step_of_ack hhost hact]
    rfl

/-! ## Refusals -/

/-- 60 R184: with the ids not written and a buffer that is too long, one of the two reasons is given. -/
theorem refusal_of_idsUnset {s : State} (hidle : s.activity = .idle) (hunset : s.idsWritten = false) (len : Nat) :
    ∃ r, s.refusal true len = some r ∧ ((∀ max, s.bufMax = some max → len ≤ max) → r = .idsUnset) ∧
      (r = .idsUnset ∨ r = .bufferTooLong) := by
  have hbusy := (State.busy_eq_false_iff s).2 hidle
  cases htoo : s.tooLong len with
  | false => exact ⟨.idsUnset, by simp [State.refusal, hbusy, hunset, htoo], fun _ => rfl, .inl rfl⟩
  | true =>
    refine ⟨if Config.idsUnsetFirst then .idsUnset else .bufferTooLong, by simp [State.refusal, hbusy, hunset, htoo],
      fun hfits => ?_, ite_eq_or_eq ..⟩
    rw [(State.tooLong_eq_false_iff s len).2 hfits] at htoo
    cases htoo

theorem refusal_of_tooLong {s : State} (hidle : s.activity = .idle) {reads : Bool}
    (hids : reads = true → s.idsWritten = true) {max len : Nat} (hmax : s.bufMax = some max) (hlong : max < len) :
    s.refusal reads len = some .bufferTooLong := by
  have hbusy := (State.busy_eq_false_iff s).2 hidle
  have htoo : s.tooLong len = true := by simp [State.tooLong, hmax, hlong]
  cases reads with
  | false => simp [State.refusal, hbusy, htoo]
  | true => simp [State.refusal, hbusy, htoo, hids rfl]

theorem exec_of_refusal {i : Instr} (hspace : i.space = .command) {s : State} {r : RefusalReason}
    (h : s.refusal (readsIds i) (boundedLength i) = some r) : exec i s = .next (s.refuse r) := by
  rw [exec_eq_perform hspace, State.perform, h]

/-- 42 R133: a write whose soft message does not fit is refused. -/
theorem exec_buildWrite_of_gt {s : State} (hidle : s.activity = .idle) (d c : Byte) (dl cl start : Half) (count : Byte)
    {values : List Half} (hlong : 121 < values.length) :
    exec (.buildWrite d c dl cl start count values) s = .next (s.refuse .payloadTooLong) := by
  rw [exec_buildWrite_eq_perform, buildFrame_eq, if_pos (by rw [length_bytesOfHalves]; omega)]
  exact State.perform_of_admits (State.admits_plain hidle) _

/-- Settles O40: each reason is what `State.refusal` gives, or `rejectRequest` for bytes that are no instruction, or the
builder's own; each refusal is `State.refuse`. -/
theorem refusedRequestsChangeNothing : Obligations.RefusedRequestsChangeNothing := by
  refine ⟨fun s bytes later hhost hbusy => ?busy, fun s b args later hhost hidle hb => step_of_unassigned hhost hidle hb,
    fun s i len hi hidle hunset => ?unset, fun s i bytes max hi hidle hmax hlong => ?long,
    fun s d c dl cl start count values hidle hlong => exec_buildWrite_of_gt hidle d c dl cl start count hlong⟩
  case busy =>
    cases hdecode : decode .command bytes with
    | ok i =>
      rw [step_of_request hhost hdecode]
      exact exec_of_busy (s := { s with host := later }) (decode_command_space hdecode) hbusy
    | error e =>
      rw [step_of_rejected hhost hdecode]
      exact if_pos (decide_eq_true hbusy)
  case unset =>
    have hop : i.space = .command ∧ readsIds i = true ∧ boundedLength i = len := by
      rcases hi with ⟨b, p, rfl, rfl⟩ | ⟨b, p, rfl, rfl⟩ | ⟨h, rfl, rfl⟩ | ⟨h, m, rfl, rfl⟩ <;> exact ⟨rfl, rfl, rfl⟩
    obtain ⟨hspace, hreads, hlen⟩ := hop
    obtain ⟨r, hr, hfits, hone⟩ := refusal_of_idsUnset hidle hunset len
    exact ⟨r, exec_of_refusal hspace (by rw [hreads, hlen, hr]), hfits, hone⟩
  case long =>
    have hop : i.space = .command ∧ boundedLength i = bytes.length ∧ (readsIds i = true → s.idsWritten = true) := by
      rcases hi with rfl | rfl | rfl | ⟨n, rfl⟩ | ⟨⟨p, rfl | rfl⟩, hwritten⟩
      iterate 4 · exact ⟨rfl, rfl, nofun⟩
      all_goals exact ⟨rfl, rfl, fun _ => hwritten⟩
    obtain ⟨hspace, hlen, hids⟩ := hop
    exact exec_of_refusal hspace (hlen ▸ refusal_of_tooLong hidle hids hmax hlong)

/-! ## No step faults -/

theorem ownMove_goes_on (s : State) : ∃ t, s.ownMove.outcome = .next t := by
  cases hact : s.activity with
  | idle | handling => exact ⟨s, ownMove_of_not_scanning (by simp [hact])⟩
  | scanning sc =>
    cases hdecode : decode .buffer sc.rest with
    | ok i => exact ⟨_, (ownMove_of_frame hact hdecode).trans (frameInstructionAgreesWithItsBytes s sc sc.rest i hact hdecode)⟩
    | error e =>
      refine ⟨s.turn sc sc.rest, ?_⟩
      rw [State.ownMove, hact]
      simp only [hdecode]
      rfl

theorem exec_command_goes_on {i : Instr} (hspace : i.space = .command) (s : State) : ∃ t, exec i s = .next t := by
  rw [exec_eq_perform hspace]
  rcases s.perform_cases (readsIds i) (boundedLength i) (completed s i) with ⟨-, he⟩ | ⟨why, -, he⟩ <;> exact ⟨_, he⟩

/-- A rejected request goes on, or stops as malformed on an idle block (assumption 5). -/
theorem rejectRequest_cases (s : State) (e : DecodeError) :
    (∃ t, s.rejectRequest e = .next t) ∨ (s.rejectRequest e = .refused .malformedRequest ∧ s.activity = .idle) := by
  unfold State.rejectRequest
  split
  case isTrue => exact .inl ⟨_, rfl⟩
  case isFalse hbusy =>
    have hidle := (State.busy_eq_false_iff s).1 (Bool.eq_false_iff.2 hbusy)
    cases e with
    | unknownOperation op => exact .inl ⟨_, rfl⟩
    | noOperation | operandsMissing | frameTooShort | noFrameRow => exact .inr ⟨rfl, hidle⟩

/-- Every step goes on, but for a malformed request of an idle block. -/
theorem step_goes_on_or_malformed (s : State) : (∃ t, step s = .next t) ∨
    (step s = .refused .malformedRequest ∧ s.activity = .idle ∧
      ∃ bytes later e, s.host = .request bytes :: later ∧ decode .command bytes = .error e) := by
  by_cases hunasked : s.Unasked
  · rw [step_of_unasked hunasked]
    exact .inl (ownMove_goes_on _)
  cases hhost : s.host with
  | nil => exact absurd (.inl hhost) hunasked
  | cons a later =>
    cases a with
    | idle => exact absurd (.inr ⟨later, .inl hhost⟩) hunasked
    | ack =>
      cases hact : s.activity with
      | handling r => exact .inl ⟨_, step_of_ack hhost hact⟩
      | idle | scanning => exact absurd (unasked_of_act hhost (.inr rfl) (by simp [hact])) hunasked
    | reset => exact .inl ⟨_, step_of_reset hhost⟩
    | request bytes =>
      cases hdecode : decode .command bytes with
      | ok i =>
        rw [step_of_request hhost hdecode]
        exact .inl (exec_command_goes_on (decode_command_space hdecode) _)
      | error e =>
        rw [step_of_rejected hhost hdecode]
        exact (rejectRequest_cases { s with host := later } e).imp id fun h => ⟨h.1, h.2, bytes, later, e, rfl, hdecode⟩

/-- Settles O47: a step that does not go on is a malformed request of an idle block. -/
theorem stepNeverFaults : Obligations.StepNeverFaults := by
  intro s
  rcases step_goes_on_or_malformed s with ⟨t, ht⟩ | ⟨hr, hidle, hbytes⟩
  · rw [ht]
    exact ⟨nofun, nofun⟩
  · rw [hr]
    refine ⟨nofun, fun r h => ?_⟩
    cases h
    exact ⟨rfl, hidle, hbytes⟩

end Sys2Proof.Proofs
end

section
/-! The laws of the two CRCs (40_crc R95) and the stream of requests that computes one (40_crc section 2). -/

namespace Sys2Proof.Proofs

open Sys2Proof Sys2Proof.Machine

/-! ## The laws -/

theorem crc8_append (A B : List Byte) : crc8 (A ++ B) = B.foldl crc8Step (crc8 A) := List.foldl_append ..

theorem crc16_append (A B : List Byte) : crc16 (A ++ B) = B.foldl crc16Step (crc16 A) := List.foldl_append ..

theorem foldl_replicate_of_fixed {α β : Type} {step : α → β → α} {a : α} {b : β} (h : step a b = a) (n : Nat) :
    (List.replicate n b).foldl step a = a := by
  induction n with
  | zero => rfl
  | succ n ih => rw [List.replicate_succ, List.foldl_cons, h, ih]

/-- Settles O9: the fold over a concatenation, and 0 as the fixed point of the step on a zero byte. -/
theorem crcComposesAndIgnoresLeadingZeros : Obligations.CrcComposesAndIgnoresLeadingZeros := by
  intro n A B
  have h8 : crc8 (List.replicate n 0x00#8) = init8 := foldl_replicate_of_fixed (by decide) n
  have h16 : crc16 (List.replicate n 0x00#8) = init16 := foldl_replicate_of_fixed (by decide) n
  refine ⟨?_, ?_, crc8_append A B, crc16_append A B⟩
  · rw [crc8_append, h8]
    rfl
  · rw [crc16_append, h16]
    rfl

/-- A fold by a step that distributes over XOR distributes over the bytewise XOR. -/
theorem foldl_zipWith_xor {v w : Nat} {step : BitVec v → BitVec w → BitVec v}
    (hstep : ∀ a a' b b', step (a ^^^ a') (b ^^^ b') = step a b ^^^ step a' b') (A B : List (BitVec w)) (a a' : BitVec v)
    (hlen : A.length = B.length) :
    (List.zipWith (· ^^^ ·) A B).foldl step (a ^^^ a') = A.foldl step a ^^^ B.foldl step a' := by
  induction A generalizing B a a' with
  | nil =>
    cases B with
    | nil => rfl
    | cons => cases hlen
  | cons x A ih =>
    cases B with
    | nil => cases hlen
    | cons y B =>
      rw [List.zipWith_cons_cons, List.foldl_cons, hstep, ih B _ _ (Nat.succ.inj hlen)]
      rfl

/-- Settles O10: both steps distribute over XOR, and both folds start at 0. -/
theorem crcIsLinear : Obligations.CrcIsLinear := fun A B hlen =>
  ⟨foldl_zipWith_xor crc8Step_xor A B init8 init8 hlen,
    foldl_zipWith_xor crc16Step_xor A B init16 init16 hlen⟩

theorem crc8Step_self (a : Byte) : crc8Step a a = 0x00#8 := by
  rw [crc8Step, BitVec.xor_self]
  decide

/-- The CRC-16's high byte, entered at the high byte, cancels there and leaves the low byte. -/
theorem xor_hi8 (a : Half) : a ^^^ ((hi8 a).zeroExtend 16 <<< 8) = (lo8 a).zeroExtend 16 := by
  apply BitVec.eq_of_getLsbD_eq
  intro i hi
  by_cases h : i < 8
  · simp [lo8, hi8, h, hi]
  · simp [lo8, hi8, h, hi, show 8 + (i - 8) = i by omega, show i - 8 < 8 by omega]

/-- Eight rounds on a low byte alone shift it up: no top bit is set on the way. -/
theorem crc16Rounds_lowByte : ∀ b : Byte, crc16Round^[8] (b.zeroExtend 16) = b.zeroExtend 16 <<< 8 := by
  decide +kernel

theorem crc16Step_self (a : Half) : crc16Step (crc16Step a (hi8 a)) (lo8 a) = 0x0000#16 := by
  have hfirst : crc16Step a (hi8 a) = (lo8 a).zeroExtend 16 <<< 8 := by rw [crc16Step, xor_hi8, crc16Rounds_lowByte]
  rw [hfirst, crc16Step, BitVec.xor_self]
  decide

/-- Settles O11: the appended bytes cancel the accumulator; the swapped bytes do not for the message 01. -/
theorem appendedCrcLeavesZeroResidue : Obligations.AppendedCrcLeavesZeroResidue := by
  refine ⟨fun B => ⟨?crc8, ?crc16⟩, [0x01#8], by decide +kernel⟩
  case crc8 => rw [crc8_concat, crc8Step_self]
  case crc16 =>
    rw [crc16_append]
    exact crc16Step_self _

/-- Settles O12: the steps lose neither a change of the accumulator nor one of the byte. -/
theorem crcDetectsEverySingleBitFlip : Obligations.CrcDetectsEverySingleBitFlip :=
  fun _ _ hk => ⟨crc8_flipBit_ne hk, crc16_flipBit_ne hk⟩

/-! ## A stream of requests -/

theorem run_succ_of_step {s t : State} (h : step s = .next t) (k : Nat) :
    Host.Core.run core (k + 1) s = Host.Core.run core k t := by
  have hcore : core.step s = .next t := h
  simp only [Host.Core.run, hcore]

/-- The step from `s` to `t` answers the host's request with the value `v`, and the block is ready for the act after it. -/
structure Answers (s t : State) (later : List HostAct) (v : Value) : Prop where
  step_eq : step s = .next t
  idle : t.activity = .idle
  host : t.host = later
  outputs : t.outputs = s.outputs ++ [Output.value v]

section Stream

variable {α : Type} {byteRequest : Byte → List Byte} {readRequest : List Byte} {acc : State → α} {next : α → Byte → α}
  {result : α → Value}
  (hbyte : ∀ (s : State) (b : Byte) (later : List HostAct), s.activity = .idle → s.host = .request (byteRequest b) :: later →
    ∃ t, Answers s t later .none ∧ acc t = next (acc s) b)
  (hread : ∀ (s : State) (later : List HostAct), s.activity = .idle → s.host = .request readRequest :: later →
    ∃ t, Answers s t later (result (acc s)))
include hbyte hread

/-- BYTE for each byte and then READ return the fold from the accumulator they found, whatever generator it is. -/
theorem run_stream (bytes : List Byte) (s : State) (hidle : s.activity = .idle)
    (hhost : s.host = bytes.map (fun b => HostAct.request (byteRequest b)) ++ [HostAct.request readRequest]) :
    ∃ t, Host.Core.run core (bytes.length + 1) s = .next t ∧ t.host = [] ∧
      t.outputs = s.outputs ++ List.replicate bytes.length (Output.value Value.none) ++
        [Output.value (result (bytes.foldl next (acc s)))] := by
  induction bytes generalizing s with
  | nil =>
    obtain ⟨t, ht⟩ := hread s [] hidle hhost
    exact ⟨t, run_succ_of_step ht.step_eq 0, ht.host, by simpa using ht.outputs⟩
  | cons b bytes ih =>
    obtain ⟨t, ht, hacc⟩ := hbyte s b _ hidle hhost
    obtain ⟨u, hrun, hdone, houtputs⟩ := ih t ht.idle ht.host
    refine ⟨u, (run_succ_of_step ht.step_eq _).trans hrun, hdone, ?_⟩
    rw [houtputs, ht.outputs, hacc, List.length_cons, List.replicate_succ, List.foldl_cons]
    simp only [List.append_assoc, List.cons_append, List.nil_append]

/-- CLR first makes it the fold from `init`. -/
theorem run_clr_stream {clrRequest : List Byte} {init : α}
    (hclr : ∀ (s : State) (later : List HostAct), s.activity = .idle → s.host = .request clrRequest :: later →
      ∃ t, Answers s t later .none ∧ acc t = init)
    (bytes : List Byte) (s : State) (hidle : s.activity = .idle)
    (hhost : s.host = HostAct.request clrRequest ::
      (bytes.map (fun b => HostAct.request (byteRequest b)) ++ [HostAct.request readRequest])) :
    ∃ t, Host.Core.run core (bytes.length + 2) s = .next t ∧ t.host = [] ∧
      t.outputs = s.outputs ++ List.replicate (bytes.length + 1) (Output.value Value.none) ++
        [Output.value (result (bytes.foldl next init))] := by
  obtain ⟨t, ht, hacc⟩ := hclr s _ hidle hhost
  obtain ⟨u, hrun, hdone, houtputs⟩ := run_stream hbyte hread bytes t ht.idle ht.host
  refine ⟨u, (run_succ_of_step ht.step_eq _).trans hrun, hdone, ?_⟩
  rw [houtputs, ht.outputs, hacc, List.replicate_succ]
  simp only [List.append_assoc, List.cons_append, List.nil_append]

end Stream

/-- A request that the idle block completes with a value is answered by it. -/
theorem answers_of_request {s done : State} {bytes : List Byte} {later : List HostAct} {i : Instr} {v : Value}
    (hhost : s.host = .request bytes :: later) (hdecode : decode .command bytes = .ok i)
    (hexec : exec i { s with host := later } = .next (done.finish v)) (hdone : done.host = later)
    (houtputs : done.outputs = s.outputs) : Answers s (done.finish v) later v where
  step_eq := (step_of_request hhost hdecode).trans hexec
  idle := rfl
  host := hdone
  outputs := congrArg (· ++ [Output.value v]) houtputs

/-- Settles O8: each request is answered on an idle block and leaves it idle; the accumulator goes through the fold. -/
theorem streamedBytesGiveTheMessageCrc : Obligations.StreamedBytesGiveTheMessageCrc := by
  intro s bytes hidle
  refine ⟨fun hhost => ?crc8, fun hhost => ?crc16⟩
  case crc8 =>
    refine run_clr_stream (byteRequest := fun b => [0x01#8, b]) (acc := State.acc8) (next := crc8Step) (result := .byte)
      (fun s b later hidle hhost => ?_) (fun s later hidle hhost => ?_) (init := init8) (fun s later hidle hhost => ?_)
      bytes s hidle hhost
    · exact ⟨_, answers_of_request hhost rfl (exec_crc8Byte_of_idle (s := { s with host := later }) hidle b) rfl rfl, rfl⟩
    · exact ⟨_, answers_of_request hhost rfl (exec_crc8Read_of_idle (s := { s with host := later }) hidle) rfl rfl⟩
    · exact ⟨_, answers_of_request hhost rfl (exec_crc8Clr_of_idle (s := { s with host := later }) hidle) rfl rfl, rfl⟩
  case crc16 =>
    refine run_clr_stream (byteRequest := fun b => [0x05#8, b]) (acc := State.acc16) (next := crc16Step) (result := .half)
      (fun s b later hidle hhost => ?_) (fun s later hidle hhost => ?_) (init := init16) (fun s later hidle hhost => ?_)
      bytes s hidle hhost
    · exact ⟨_, answers_of_request hhost rfl (exec_crc16Byte_of_idle (s := { s with host := later }) hidle b) rfl rfl, rfl⟩
    · exact ⟨_, answers_of_request hhost rfl (exec_crc16Read_of_idle (s := { s with host := later }) hidle) rfl rfl⟩
    · exact ⟨_, answers_of_request hhost rfl (exec_crc16Clr_of_idle (s := { s with host := later }) hidle) rfl rfl, rfl⟩

end Sys2Proof.Proofs
end

section
/-! The validators, the builders and PROCESS_ONE on an idle block (41_frame_decode R101, R103, R105, 42_frame_encode R131, R133,
R137): the one output each request delivers. -/

namespace Sys2Proof.Proofs

open Sys2Proof Sys2Proof.Machine

/-! ## The validators -/

/-- What a validator delivers: Ok, or the first check that failed. -/
def verdictOutput : Option ErrorKind → Output
  | none => .value .ok
  | some k => .error k

theorem verdict_of_idle {s : State} (hidle : s.activity = .idle) (e : Option ErrorKind) :
    s.verdict e = { s with outputs := s.outputs ++ [verdictOutput e] } := by
  cases e with
  | none => exact State.finish_of_idle hidle .ok
  | some k => exact State.raise_of_idle hidle k

/-- With no buffer that is too long, an operation that reads the ids is refused `IdsUnset` while they are not written. -/
theorem exec_of_idsUnset {i : Instr} (hspace : i.space = .command) (hreads : readsIds i = true) {s : State}
    (hidle : s.activity = .idle) (hunset : s.idsWritten = false)
    (hfits : ∀ max, s.bufMax = some max → boundedLength i ≤ max) : exec i s = .next (s.refuse .idsUnset) := by
  obtain ⟨r, hr, hwhich, -⟩ := refusal_of_idsUnset hidle hunset (boundedLength i)
  obtain rfl := hwhich hfits
  exact exec_of_refusal hspace (by rw [hreads, hr])

theorem exec_validateHard_of_idle {s : State} (hidle : s.activity = .idle) (hw : s.idsWritten = true) (h : HardHeader) :
    exec (.validateHard h) s = .next { s with outputs := s.outputs ++ [verdictOutput (hardError s.ids h)] } := by
  rw [exec_validateHard_of_admits (State.admits_ids hidle hw), verdict_of_idle hidle]

theorem exec_validateSoft_of_idle {s : State} (hidle : s.activity = .idle) (hw : s.idsWritten = true) (h : HardHeader)
    (m : SoftMessage) :
    exec (.validateSoft h m) s = .next { s with outputs := s.outputs ++ [verdictOutput (softError s.ids h m)] } := by
  rw [exec_validateSoft_of_admits (State.admits_ids hidle hw), verdict_of_idle hidle]

theorem known_eq_false_iff (ids : Ids) (a : Byte) : ids.known a = false ↔ a ≠ ids.conHard ∧ a ≠ ids.devHard := by
  simp [Ids.known]

/-- R101: the five checks in their order. -/
theorem verdictOutput_hardError (ids : Ids) (h : HardHeader) : verdictOutput (hardError ids h) =
    if h.startByte ≠ 0x69#8 then .error .invalidStartByte
    else if h.crc8 ≠ h.calcCrc8 then .error .invalidHardChecksum
    else if h.constBytes ≠ 0x000084#24 then .error .invalidConstBytes
    else if (h.fromHard ≠ ids.conHard ∧ h.fromHard ≠ ids.devHard) ∨ (h.toHard ≠ ids.conHard ∧ h.toHard ≠ ids.devHard) then
      .error .invalidHardAddress
    else if h.fromHard = h.toHard then .error .hardAddressCollision
    else .value .ok := by
  simp only [hardError, startByte, hardConst, known_eq_false_iff]
  split_ifs <;> rfl

/-- 43 R150: with equal hard ids two known addresses collide. -/
theorem hardError_of_equal_hard_ids {ids : Ids} (heq : ids.conHard = ids.devHard) (h : HardHeader) :
    ∃ k, hardError ids h = some k := by
  have hcollide : ¬ (ids.known h.fromHard = false ∨ ids.known h.toHard = false) → h.fromHard = h.toHard := by
    intro hknown
    obtain ⟨hfrom, hto⟩ := not_or.1 hknown
    exact (eq_conHard_of_configured heq ((Ids.known_iff ids _).1 (Bool.not_eq_false _ ▸ hfrom))).trans
      (eq_conHard_of_configured heq ((Ids.known_iff ids _).1 (Bool.not_eq_false _ ▸ hto))).symm
  unfold hardError
  split_ifs with _ _ _ hknown hne
  case neg => exact absurd (hcollide hknown) hne
  all_goals exact ⟨_, rfl⟩

/-- Settles O15: an idle block with the ids written delivers the verdict of R101's checks. -/
theorem validateHardReportsTheFirstFailure : Obligations.ValidateHardReportsTheFirstFailure := by
  refine ⟨Laws.HeadByte.validateHard, fun s h hidle => ⟨fun hunset => ?unset, fun hw => ?verdict, fun hw heq => ?equal⟩,
    fun s hidle hw hids => ⟨?scenario, ?stranger⟩⟩
  case unset => exact exec_of_idsUnset rfl rfl hidle hunset fun _ _ => Nat.zero_le _
  case verdict => rw [exec_validateHard_of_idle hidle hw, verdictOutput_hardError]
  case equal =>
    obtain ⟨k, hk⟩ := hardError_of_equal_hard_ids heq h
    exact ⟨k, by rw [exec_validateHard_of_idle hidle hw, hk]; rfl⟩
  case scenario =>
    have hok : hardError ⟨1#8, 2#8, 1#16, 2#16⟩ (headerAt scenarioFrame) = none := by decide +kernel
    rw [exec_validateHard_of_idle hidle hw, hids, hok]
    rfl
  case stranger =>
    have hbad : hardError ⟨1#8, 2#8, 1#16, 2#16⟩ { headerAt scenarioFrame with
        toHard := 3#8, crc8 := 0x6E#8, calcCrc8 := crc8 [0x69#8, 3#8, 1#8, 0x84#8, 0#8, 0#8, 12#8] } =
          some .invalidHardAddress := by decide +kernel
    rw [exec_validateHard_of_idle hidle hw, hids, hbad]
    rfl

theorem softError_of_checksum {ids : Ids} {h : HardHeader} {m : SoftMessage} (hc : m.crc16 ≠ m.calcCrc16) :
    softError ids h m = some .invalidSoftChecksum := if_pos hc

theorem softError_of_const {ids : Ids} {h : HardHeader} {m : SoftMessage} (hc : m.crc16 = m.calcCrc16)
    (hk : m.constByte ≠ softConst) : softError ids h m = some .invalidSoftConst := by
  rw [softError, if_neg (not_not.2 hc), if_pos hk]

/-- Settles O17: the four outcomes of R103's checks, each the verdict of an idle block with the ids written. -/
theorem validateSoftReportsTheFirstFailure : Obligations.ValidateSoftReportsTheFirstFailure := by
  refine ⟨Laws.HeadByte.validateSoft, fun s h m hidle => ⟨fun hunset => ?unset, fun hw => ?verdict⟩,
    fun s hidle hw hids => ⟨?scenario, ?stranger⟩⟩
  case unset => exact exec_of_idsUnset rfl rfl hidle hunset fun _ _ => Nat.zero_le _
  case verdict =>
    rw [exec_validateSoft_of_idle hidle hw]
    refine ⟨fun hc => ?_, fun hc hk => ?_, fun hc hk hb => ?_, fun hc hk hfrom hto => ?_⟩
    · rw [softError_of_checksum hc]; rfl
    · rw [softError_of_const hc hk]; rfl
    · rw [softError_of_not_bound hc hk hb]; rfl
    · rw [softError_of_bound hc hk hfrom hto]; rfl
  case scenario =>
    have hok : softError ⟨1#8, 2#8, 1#16, 2#16⟩ (headerAt scenarioFrame) (messageAt scenarioFrame) = none := by decide +kernel
    rw [exec_validateSoft_of_idle hidle hw, hids, hok]
    rfl
  case stranger =>
    have hbad : softError ⟨1#8, 2#8, 1#16, 2#16⟩ (headerAt scenarioFrame) { messageAt scenarioFrame with
        toLogical := 1#16, crc16 := 0xCA09#16,
        calcCrc16 := crc16 [1#8, 0#8, 1#8, 0#8, 0x40#8, 0x80#8, 0#8, 0x5C#8, 0x78#8, 0#8] } =
          some .invalidSoftAddress := by decide +kernel
    rw [exec_validateSoft_of_idle hidle hw, hids, hbad]
    rfl

/-! ## The builders -/

/-- What a builder delivers: its frame, or the refusal. -/
def builtOutput : Option (List Byte) → Output
  | some F => .value (.frame F)
  | none => .refused .payloadTooLong

theorem outputsOf_perform_built {s : State} (hidle : s.activity = .idle) (frame : Option (List Byte)) :
    outputsOf (s.perform false 0 (s.built frame)) = s.outputs ++ [builtOutput frame] := by
  rw [State.perform_of_admits (State.admits_plain hidle)]
  cases frame <;> rfl

/-- Settles O35: the output is that of `buildFrame`, a function of the operands. -/
theorem buildersReadNoState : Obligations.BuildersReadNoState := by
  have hkinds : ∀ frame, builtOutput frame = .refused .payloadTooLong ∨ ∃ F, builtOutput frame = .value (.frame F) := by
    intro frame
    cases frame with
    | none => exact .inl rfl
    | some F => exact .inr ⟨F, rfl⟩
  rintro i (⟨d, c, dl, cl, start, count, rfl⟩ | ⟨d, c, dl, cl, start, count, values, rfl⟩)
  · exact ⟨_, hkinds _, fun s hidle => by rw [exec_buildRead_eq_perform, outputsOf_perform_built hidle]⟩
  · exact ⟨_, hkinds _, fun s hidle => by rw [exec_buildWrite_eq_perform, outputsOf_perform_built hidle]⟩

/-- 42 R131, R133: a write that fits is built. -/
theorem exec_buildWrite_of_le {s : State} (hidle : s.activity = .idle) (d c : Byte) (dl cl start : Half) (count : Byte)
    {values : List Half} (hvalues : values.length ≤ 121) :
    exec (.buildWrite d c dl cl start count values) s =
      .next (s.spoilAcc8.spoilAcc16.finish (.frame (builtFrame d c dl cl 0x60#8 start count (bytesOfHalves values)))) :=
  exec_request_of_idle hidle hvalues (.inl ⟨rfl, rfl⟩)

/-- R131, R132: the bytes of a built write, part by part. -/
theorem builtFrame_write (d c : Byte) (dl cl start : Half) (count : Byte) (values : List Half) {p hd : List Byte}
    (hp : p = [lo8 dl, hi8 dl, lo8 cl, hi8 cl, 0x60#8, 0x80#8, 0x00#8, count, lo8 start, hi8 start] ++ wordBytes values)
    (hhd : hd = [0x69#8, d, c, 0x84#8, 0x00#8, 0x00#8, BitVec.ofNat 8 (12 + 2 * values.length)]) :
    builtFrame d c dl cl 0x60#8 start count (bytesOfHalves values) =
      hd ++ [crc8 hd] ++ p ++ [hi8 (crc16 p), lo8 (crc16 p)] := by
  rw [wordBytes_eq_bytesOfHalves] at hp
  have hbody : softBody dl cl 0x60#8 start count (bytesOfHalves values) = p := hp.symm
  have hlen : (softWithCrc p).length = 12 + 2 * values.length := by
    rw [← hbody, length_softWithCrc, length_softBody, length_bytesOfHalves]
    omega
  rw [builtFrame, hbody, frameAround, headerFor, hlen, ← hhd, softWithCrc, List.append_assoc (hd ++ [crc8 hd])]

/-- Settles O31: the frame of a write that fits, part by part; one that does not is refused. -/
theorem buildWriteWritesTheValuesLowByteFirst : Obligations.BuildWriteWritesTheValuesLowByteFirst := by
  refine ⟨Laws.HeadByte.buildWrite,
    fun s d c dl cl start count values hidle hlong => exec_buildWrite_of_gt hidle d c dl cl start count hlong,
    fun s d c dl cl start count values hidle hvalues => ?bytes, fun s hidle => ?worked⟩
  case bytes =>
    refine ⟨_, _, rfl, rfl, ?_⟩
    rw [exec_buildWrite_of_le hidle d c dl cl start count hvalues,
      State.finish_of_idle (s := s.spoilAcc8.spoilAcc16) hidle, builtFrame_write d c dl cl start count values rfl rfl]
    exact ⟨_, _, _, rfl⟩
  case worked =>
    have hframe : builtFrame 2#8 1#8 2#16 1#16 0x60#8 304#16 2#8 (bytesOfHalves [0x0001#16]) =
        [0x69#8, 0x02#8, 0x01#8, 0x84#8, 0x00#8, 0x00#8, 0x0E#8, 0x89#8, 0x02#8, 0x00#8, 0x01#8, 0x00#8, 0x60#8, 0x80#8,
          0x00#8, 0x02#8, 0x30#8, 0x01#8, 0x01#8, 0x00#8, 0x23#8, 0x85#8] := by decide +kernel
    rw [exec_buildWrite_of_le hidle _ _ _ _ _ _ (by decide), hframe]
    rfl

/-- Settles O32: the length of a built write, which its seventh byte declares. -/
theorem buildWriteRefusesMoreThan121Values : Obligations.BuildWriteRefusesMoreThan121Values := by
  intro s d c dl cl start count values hidle
  refine ⟨fun hlong => exec_buildWrite_of_gt hidle d c dl cl start count hlong, fun hvalues => ?built⟩
  have hdata : (bytesOfHalves values).length = 2 * values.length := length_bytesOfHalves values
  refine ⟨_, congrArg outputsOf (exec_buildWrite_of_le hidle d c dl cl start count hvalues), ?_, ?_, ?_⟩
  · rw [length_builtFrame, hdata]
  · rw [length_builtFrame, hdata]
    omega
  · rw [toNat_declared_builtFrame (by omega), hdata]

/-! ## PROCESS_ONE -/

/-- Settles O18: PROCESS_ONE is `State.one` on the spoilt accumulators, whose outcome is that of the first row of R67 that
holds, or the delivery; the host's return delivers the result pair. -/
theorem processOneReportsTheFirstIllegalEncoding : Obligations.ProcessOneReportsTheFirstIllegalEncoding := by
  refine ⟨Laws.HeadByte.processOne, fun s F p hadmits hunset => ?unset, fun s F p hadmits =>
    ⟨fun row hfirst => ?illegal, fun hlegal => ?legal, legal_or_firstIllegal s.ids F, fun t n rest later hact hhost => ?ack⟩⟩
  case unset => exact exec_of_idsUnset rfl rfl hadmits.idle hunset hadmits.fits
  case illegal =>
    have hidle : s.spoilAcc8.spoilAcc16.activity = .idle := hadmits.idle
    rw [exec_processOne_of_admits hadmits, one_of_firstIllegal (s := s.spoilAcc8.spoilAcc16) hfirst]
    by_cases hwait : row = 7 ∧ p = true
    · rw [if_pos hwait, if_pos hwait, State.finish_of_idle hidle]
      exact ⟨_, _, _, rfl⟩
    · rw [if_neg hwait, if_neg hwait, State.raise_of_idle hidle]
      exact ⟨_, _, _, rfl⟩
  case legal =>
    rw [exec_processOne_of_admits hadmits, one_of_legal (s := s.spoilAcc8.spoilAcc16) hlegal]
    exact ⟨_, _, _, rfl⟩
  case ack =>
    rw [step_of_ack hhost hact]
    rfl

end Sys2Proof.Proofs
end

section
/-! PROCESS_ALL (41_frame_decode R106, 43 R153): the head of its loop, the outputs of R106 frame by frame, and the run that
delivers them. -/

namespace Sys2Proof.Proofs

open Sys2Proof Sys2Proof.Machine

theorem exec_processAll_of_admits {s : State} {buffer : List Byte} (h : s.Admits true buffer.length) (allowPartial : Bool) :
    exec (.processAll buffer allowPartial) s = .next (s.spoilAcc8.spoilAcc16.loop ⟨buffer, 0, allowPartial⟩) :=
  State.perform_of_admits h _

/-- Settles O20: PROCESS_ALL begins at the head of its loop with the cursor at 0, where all of the buffer is left. -/
theorem processAllBeginsAtCursorZero : Obligations.ProcessAllBeginsAtCursorZero := by
  intro s buffer allowPartial hadmits
  have hidle : s.activity = .idle := hadmits.idle
  rw [exec_processAll_of_admits hadmits, loop_eq]
  exact ⟨_, _, _, rfl⟩

/-! ## The outputs of the loop -/

/-- The scan after a frame of `n` bytes at its cursor. -/
def advanced (sc : Scan) (n : Nat) : Scan := { sc with pos := sc.pos + n }

theorem rest_advanced (sc : Scan) (n : Nat) : (advanced sc n).rest = sc.rest.drop n := (List.drop_drop ..).symm

theorem length_rest_advanced (sc : Scan) (n : Nat) : (advanced sc n).rest.length = sc.rest.length - n := by
  rw [rest_advanced, List.length_drop]

section Outputs

variable {ids : Ids} {sc : Scan}

theorem scanOutputs_of_le (h : sc.rest.length ≤ sc.min) (fuel : Nat) :
    scanOutputs ids sc fuel = [Output.value (.remaining sc.rest)] := by
  cases fuel with
  | zero => rfl
  | succ fuel => rw [scanOutputs, if_neg (Nat.not_lt.2 h)]

theorem scanOutputs_of_firstIllegal {row : Nat} (hmore : sc.min < sc.rest.length) (h : FirstIllegal ids sc.rest row)
    (fuel : Nat) : scanOutputs ids sc (fuel + 1) =
      [if row = 7 ∧ sc.allowPartial = true then Output.value (.remaining sc.rest) else .error (rowKind row)] := by
  rw [scanOutputs, if_pos hmore, processFrame_of_firstIllegal h]
  by_cases hwait : row = 7 ∧ sc.allowPartial = true
  · rw [if_pos hwait, if_pos hwait]
    exact if_pos hwait.2
  · rw [if_neg hwait, if_neg hwait]

theorem min_lt_of_legal (h : Legal ids sc.rest) : sc.min < sc.rest.length := by
  obtain ⟨hmin, hfits⟩ := h.length
  have := sc.min_le_eight
  omega

theorem scanOutputs_of_legal (h : Legal ids sc.rest) (fuel : Nat) : scanOutputs ids sc (fuel + 1) =
    .msg (headerAt sc.rest) (messageAt sc.rest) (sc.rest.take (8 + (byteAt sc.rest 6).toNat)) ::
      scanOutputs ids (advanced sc (8 + (byteAt sc.rest 6).toNat)) fuel := by
  rw [scanOutputs, if_pos (min_lt_of_legal h), processFrame_of_legal h]
  rfl

end Outputs

/-- What the loop delivers depends on the mode and the bytes from the cursor on, and a turn a byte is always enough. -/
theorem scanOutputs_congr {ids : Ids} {fuel fuel' : Nat} {sc sc' : Scan} (hrest : sc.rest = sc'.rest)
    (hmode : sc.allowPartial = sc'.allowPartial) (hfuel : sc.rest.length ≤ fuel) (hfuel' : sc.rest.length ≤ fuel') :
    scanOutputs ids sc fuel = scanOutputs ids sc' fuel' := by
  induction fuel generalizing fuel' sc sc' with
  | zero =>
    rw [scanOutputs_of_le (hfuel.trans (Nat.zero_le _)), scanOutputs_of_le (hrest ▸ hfuel.trans (Nat.zero_le _)), hrest]
  | succ fuel ih =>
    have hmin : sc.min = sc'.min := by rw [Scan.min, Scan.min, hmode]
    by_cases hmore : sc.min < sc.rest.length
    case neg =>
      have hend := Nat.le_of_not_lt hmore
      rw [scanOutputs_of_le hend, scanOutputs_of_le (hmin ▸ hrest ▸ hend), hrest]
    case pos =>
      obtain ⟨fuel', rfl⟩ := Nat.exists_eq_succ_of_ne_zero (show fuel' ≠ 0 by omega)
      rcases legal_or_firstIllegal ids sc.rest with hlegal | ⟨row, -, hfirst⟩
      · have hlen := length_rest_advanced sc (8 + (byteAt sc.rest 6).toNat)
        rw [scanOutputs_of_legal hlegal, scanOutputs_of_legal (hrest ▸ hlegal), ← hrest]
        congr 1
        exact ih (by rw [rest_advanced, rest_advanced, hrest]) hmode (by omega) (by omega)
      · rw [scanOutputs_of_firstIllegal hmore hfirst, scanOutputs_of_firstIllegal (hmin ▸ hrest ▸ hmore) (hrest ▸ hfirst),
          hrest, hmode]

section WholeBuffer

variable {ids : Ids} {B : List Byte} {allowPartial : Bool}

theorem processAllOutputs_of_le (h : B.length ≤ if allowPartial then 8 else 0) :
    processAllOutputs ids B allowPartial = [Output.value (.remaining B)] :=
  scanOutputs_of_le (sc := ⟨B, 0, allowPartial⟩) h _

theorem processAllOutputs_of_firstIllegal {row : Nat} (hmore : (if allowPartial then 8 else 0) < B.length)
    (h : FirstIllegal ids B row) : processAllOutputs ids B allowPartial =
      [if row = 7 ∧ allowPartial = true then Output.value (.remaining B) else .error (rowKind row)] := by
  obtain ⟨fuel, hfuel⟩ := Nat.exists_eq_succ_of_ne_zero (show B.length ≠ 0 by omega)
  rw [processAllOutputs, hfuel]
  exact scanOutputs_of_firstIllegal (sc := ⟨B, 0, allowPartial⟩) hmore h fuel

end WholeBuffer

theorem legal_append {ids : Ids} {F : List Byte} (h : Legal ids F) (hwhole : F.length = 8 + (byteAt F 6).toNat)
    (B : List Byte) : Legal ids (F ++ B) := by
  have h6 : byteAt (F ++ B) 6 = byteAt F 6 := byteAt_append_left (by omega)
  have hextent : frameExtent (F ++ B) ≤ F.length := by
    rw [hwhole, ← frameExtent_of_legal h, frameExtent, frameExtent, h6]
  rw [← legal_take hextent, List.take_left]
  exact h

/-- R106 (a): a whole legal frame at the head of the buffer is delivered, and the rest is processed as if it stood alone. -/
theorem processAllOutputs_append {ids : Ids} {F : List Byte} (h : Legal ids F) (hwhole : F.length = 8 + (byteAt F 6).toNat)
    (B : List Byte) (allowPartial : Bool) : processAllOutputs ids (F ++ B) allowPartial =
      .msg (headerAt F) (messageAt F) F :: processAllOutputs ids B allowPartial := by
  obtain ⟨hmin, -⟩ := h.length
  have h6 : byteAt (F ++ B) 6 = byteAt F 6 := byteAt_append_left (by omega)
  have hheader : headerAt (F ++ B) = headerAt F := by
    rw [← headerAt_take (show 8 ≤ F.length by omega), List.take_left]
  have hmessage : messageAt (F ++ B) = messageAt F := by
    rw [← messageAt_take (h6 ▸ hmin) (h6 ▸ hwhole.ge), List.take_left]
  obtain ⟨fuel, hfuel⟩ := Nat.exists_eq_succ_of_ne_zero (show (F ++ B).length ≠ 0 by rw [List.length_append]; omega)
  have hrest : (advanced ⟨F ++ B, 0, allowPartial⟩ F.length).rest = B := by
    rw [rest_advanced]
    exact List.drop_left
  have hfirst := scanOutputs_of_legal (sc := ⟨F ++ B, 0, allowPartial⟩) (legal_append h hwhole B) fuel
  rw [show Scan.rest ⟨F ++ B, 0, allowPartial⟩ = F ++ B from rfl, hheader, hmessage, h6, ← hwhole, List.take_left] at hfirst
  rw [processAllOutputs, hfuel, hfirst]
  congr 1
  rw [List.length_append] at hfuel
  exact scanOutputs_congr hrest rfl (by rw [hrest]; omega) (by rw [hrest])

theorem firstIllegal_one_of_lt {ids : Ids} {B : List Byte} (h : B.length < 8) : FirstIllegal ids B 1 :=
  ⟨h, fun k hk => by obtain rfl := Nat.lt_one_iff.1 hk; exact not_illegalRow_zero ids B⟩

/-- Settles O22: a frame at the head, then the loop's end, by the first row of R67 or with no more than `min` bytes. -/
theorem processAllDeliversFrameAfterFrame : Obligations.ProcessAllDeliversFrameAfterFrame := by
  refine ⟨fun ids F B p hlegal hwhole => processAllOutputs_append hlegal hwhole B p,
    fun ids p => processAllOutputs_of_le (Nat.zero_le _), fun ids B hle => processAllOutputs_of_le hle,
    fun ids B hpos hshort => processAllOutputs_of_firstIllegal (allowPartial := false) hpos (firstIllegal_one_of_lt hshort),
    fun ids B p row hmore hfirst => processAllOutputs_of_firstIllegal hmore hfirst⟩

/-- Settles O26: with equal hard ids the frame at the head raises an error kind, so the loop ends there. -/
theorem equalHardIdsDeliverNothing : Obligations.EqualHardIdsDeliverNothing := by
  intro ids buffer allowPartial heq
  refine ⟨fun h sh raw n rest hd => ?one, fun h sh raw => ?all⟩
  case one =>
    obtain ⟨k, hk⟩ := processFrame_raises_of_equal_hard_ids heq buffer allowPartial
    cases hk.symm.trans hd
  case all =>
    obtain hmore | hle := Nat.lt_or_ge (if allowPartial then 8 else 0) buffer.length
    · obtain hlegal | ⟨row, -, hfirst⟩ := legal_or_firstIllegal ids buffer
      · obtain ⟨k, hk⟩ := processFrame_raises_of_equal_hard_ids heq buffer allowPartial
        cases hk.symm.trans (processFrame_of_legal hlegal allowPartial)
      · rw [processAllOutputs_of_firstIllegal hmore hfirst, List.mem_singleton]
        split <;> exact Output.noConfusion
    · rw [processAllOutputs_of_le hle, List.mem_singleton]
      exact Output.noConfusion

/-! ## The run -/

/-- A turn of the loop is one step, whether the bytes at the cursor match a frame row or not. -/
theorem step_of_scanning {s : State} {sc : Scan} (hscan : s.activity = .scanning sc) (hunasked : s.Unasked) :
    step s = .next (({ s with host := s.host.tail } : State).turn sc sc.rest) := by
  cases hdecode : decode .buffer sc.rest with
  | ok i =>
    rw [step_of_frame hscan hunasked hdecode]
    exact frameInstructionAgreesWithItsBytes { s with host := s.host.tail } sc sc.rest i hscan hdecode
  | error e => exact step_of_noRow hscan hunasked hdecode

/-- The host has handled the MSG of the legal frame at the cursor, and has `m` acks left. -/
def afterFrame (s : State) (sc : Scan) (m : Nat) : State :=
  { s with
    host := List.replicate m .ack
    activity := .handling (.advance sc (8 + (byteAt sc.rest 6).toNat))
    outputs := s.outputs ++
      [.msg (headerAt sc.rest) (messageAt sc.rest) (sc.rest.take (8 + (byteAt sc.rest 6).toNat))] }

section Run

variable {s : State} {sc : Scan} {m : Nat}

/-- One step of the loop, at which the host's ack finds no MSG. -/
theorem step_loop (hmore : sc.min < sc.rest.length) (hhost : s.host = List.replicate (m + 1) .ack) : step (s.loop sc) =
    .next (({ s with activity := .scanning sc, host := List.replicate m .ack } : State).turn sc sc.rest) := by
  have hloop : s.loop sc = { s with activity := .scanning sc } := if_pos hmore
  have hunasked : (s.loop sc).Unasked := by
    rw [hloop]
    exact .inr ⟨List.replicate m .ack, .inr ⟨hhost, nofun⟩⟩
  rw [step_of_scanning (by rw [hloop]) hunasked, hloop, hhost]
  rfl

/-- A legal frame at the cursor is two steps: its turn, and the host's return, which enters the loop again behind it. -/
theorem run_loop_of_legal (hw : s.idsWritten = true) (hlegal : Legal s.ids sc.rest)
    (hhost : s.host = List.replicate (m + 2) .ack) (k : Nat) : Host.Core.run core (k + 2) (s.loop sc) =
      Host.Core.run core k ((afterFrame s sc m).loop (advanced sc (8 + (byteAt sc.rest 6).toNat))) := by
  have hturn : step (s.loop sc) = .next { afterFrame s sc m with host := List.replicate (m + 1) .ack } :=
    (step_loop (min_lt_of_legal hlegal) hhost).trans (congrArg _ (turn_of_legal
      (s := { s with activity := .scanning sc, host := List.replicate (m + 1) .ack }) hw hlegal sc))
  have hreturn : step { afterFrame s sc m with host := List.replicate (m + 1) .ack } =
      .next ((afterFrame s sc m).loop (advanced sc (8 + (byteAt sc.rest 6).toNat))) := by
    rw [step_of_ack rfl rfl, State.resume, afterOne_of_pos _ _ (by omega)]
    rfl
  exact (run_succ_of_step hturn (k + 1)).trans (run_succ_of_step hreturn k)

/-- Where the loop entered in `s` comes to: its end within two steps a byte, with all its outputs. -/
def LoopEnds (s : State) (sc : Scan) (fuel : Nat) : Prop :=
  ∃ k u, k ≤ 2 * sc.rest.length ∧ Host.Core.run core k (s.loop sc) = .next u ∧ u.activity = .idle ∧
    u.outputs = s.outputs ++ scanOutputs s.ids sc fuel ∧ SameIds s u

theorem loopEnds_of_le (h : sc.rest.length ≤ sc.min) (fuel : Nat) : LoopEnds s sc fuel := by
  have hloop : s.loop sc = s.finish (.remaining sc.rest) := if_neg (Nat.not_lt.2 h)
  exact ⟨0, _, Nat.zero_le _, congrArg _ hloop, rfl, by rw [scanOutputs_of_le h]; rfl, rfl, rfl⟩

theorem loopEnds_of_firstIllegal (hw : s.idsWritten = true) (hmore : sc.min < sc.rest.length) {row : Nat}
    (hfirst : FirstIllegal s.ids sc.rest row) (hhost : s.host = List.replicate (m + 1) .ack) (fuel : Nat) :
    LoopEnds s sc (fuel + 1) := by
  have hturn := step_loop hmore hhost
  rw [turn_of_firstIllegal (s := { s with activity := .scanning sc, host := List.replicate m .ack }) hw hfirst] at hturn
  exact ⟨1, _, by omega, run_succ_of_step hturn 0, rfl, by rw [scanOutputs_of_firstIllegal hmore hfirst], rfl, rfl⟩

end Run

theorem loopEnds {s : State} (hw : s.idsWritten = true) {m fuel : Nat} {sc : Scan} (hhost : s.host = List.replicate m .ack)
    (hm : 2 * sc.rest.length ≤ m) (hfuel : sc.rest.length ≤ fuel) : LoopEnds s sc fuel := by
  induction fuel generalizing s sc m with
  | zero => exact loopEnds_of_le (hfuel.trans (Nat.zero_le _)) 0
  | succ fuel ih =>
    by_cases hmore : sc.min < sc.rest.length
    case neg => exact loopEnds_of_le (Nat.le_of_not_lt hmore) _
    case pos =>
      obtain ⟨m, rfl⟩ := Nat.exists_eq_add_of_le' (show 2 ≤ m by omega)
      rcases legal_or_firstIllegal s.ids sc.rest with hlegal | ⟨row, -, hfirst⟩
      · have hlen := length_rest_advanced sc (8 + (byteAt sc.rest 6).toNat)
        obtain ⟨k, u, hk, hrun, hidle, houtputs, hids⟩ := ih (s := afterFrame s sc m)
          (sc := advanced sc (8 + (byteAt sc.rest 6).toNat)) (m := m) hw rfl (by omega) (by omega)
        refine ⟨k + 2, u, by omega, (run_loop_of_legal hw hlegal hhost k).trans hrun, hidle, ?_, hids⟩
        rw [houtputs, scanOutputs_of_legal hlegal]
        exact List.append_assoc ..
      · exact loopEnds_of_firstIllegal hw hmore hfirst hhost fuel

/-- Settles O21: the loop entered at cursor 0 comes to its end, with a turn for each byte and two acks for each turn. -/
theorem processAllRunsToItsResult : Obligations.ProcessAllRunsToItsResult := by
  intro s buffer allowPartial hadmits hhost
  obtain ⟨k, u, hk, hrun, hidle, houtputs, hids, hwritten⟩ := loopEnds (s := s.spoilAcc8.spoilAcc16)
    (sc := ⟨buffer, 0, allowPartial⟩) (hadmits.ids rfl) hhost le_rfl le_rfl
  exact ⟨_, k, u, exec_processAll_of_admits hadmits allowPartial, hk, hrun, hidle, houtputs, hids, hwritten⟩

end Sys2Proof.Proofs
end
